-- ==== Sys2Proof/Word.lean ====
section
/-!
DEFINITION. The value types of the QDEC-MB block: its words, and the small closed types that name what the
spec numbers with one bit (00_scope.md R3, R4, 30_encoding.md R60).
-/

namespace Sys2Proof

/-- One byte of a frame, a buffer or a command operand. -/
abbrev Byte := BitVec 8

/-- A 16-bit quantity: a setpoint, a CRC, a device register address, a count or value (R15, R20, R43). -/
abbrev Word := BitVec 16

/-- The parallel 48-bit command word (R60). -/
abbrev CmdWord := BitVec 48

/-- A pin pattern `p = {B, A}` of one encoder, raw levels (R63). -/
abbrev Pattern := BitVec 2

/-- The two decoder channels: 0 is voltage, 1 is current (10_state.md section 1, D7). -/
inductive Chan where
  | voltage
  | current
deriving DecidableEq, Repr

/-- The agent that issued a command (R147). The block does not look at it (R146). -/
inductive Agent where
  | tickAgent
  | host
deriving DecidableEq, Repr

/-- What can be offered to the block: a command word at its command port (R60), or the bytes of one whole wire
frame (R67 to R70; the four wire rows of the opcode table, log 7 and log 8). -/
inductive Packet where
  | command (w : CmdWord)
  | frame (bytes : List Byte)
deriving DecidableEq, Repr

/-- One input of the block, in order of arrival: a new level of the reset pin (R160), or an offered packet with
the agent that issued it (R49). -/
inductive Input where
  | rst (asserted : Bool)
  | offer (agent : Agent) (p : Packet)
deriving DecidableEq, Repr

end Sys2Proof
end

