-- ==== Sys2Proof/Machine/Bytes.lean ====
section
/-!
DEFINITION. Bytes of a 16-bit quantity and the two byte orders of a frame (20_memory.md R43, R44).
-/

namespace Sys2Proof.Machine

/-- `w[15:8]`. This is the bitmask form `(w >> 8) & 0xFF` of 42_framer.md R112. -/
def hiByte (w : Word) : Byte := w.extractLsb' 8 8

/-- `w[7:0]`. -/
def loByte (w : Word) : Byte := w.extractLsb' 0 8

/-- `{h, l}`, the 16-bit value `h*256 + l` (00_scope.md R3). A payload field at bytes k, k+1 is
`concat f[k] f[k+1]` (R43); a CRC there is `concat f[k+1] f[k]` (R44). -/
def concat (h l : Byte) : Word := h ++ l

/-- The bit that numbers a channel: 0 voltage, 1 current. -/
def chanBit : Chan → BitVec 1
  | .voltage => 0#1
  | .current => 1#1

/-- The channel a bit numbers. -/
def chanOfBit (b : BitVec 1) : Chan := if b = 0#1 then .voltage else .current

/-- `n` bytes of a number, the least significant first: how decodeTableWord numbers the bits of a frame. -/
def bytesOfNat : Nat → Nat → List Byte
  | 0, _ => []
  | n + 1, w => BitVec.ofNat 8 w :: bytesOfNat n (w / 256)

end Sys2Proof.Machine
end

