-- ==== Sys2Proof/Machine/QTable.lean ====
section
/-!
DEFINITION. The transition table QTABLE: its shape, the fields of an entry, the invariants every value of the
parameter must meet, and its default value (30_encoding.md R64, 40_qdec.md R80, R82, R83).
-/

namespace Sys2Proof.Machine

/-- 16 states by 4 patterns, each entry stored in a byte (R28, R64). -/
abbrev QTable := Vector (Vector Byte 4) 16

/-- `QTABLE[s][p]` (R80). The shape makes the table total, invariant I2 of R83. -/
def lookup (t : QTable) (s : BitVec 4) (p : Pattern) : Byte := (t[s.toNat]'s.isLt)[p.toNat]'p.isLt

/-- `e[3:0]`, the next encoder state (R64). -/
def entryNext (e : Byte) : BitVec 4 := e.extractLsb' 0 4

/-- `e[5:4]`, the completion flags: 0b01 clockwise, 0b10 counter-clockwise (R64, R65). -/
def entryFlags (e : Byte) : BitVec 2 := e.extractLsb' 4 2

/-- `e[4]`, clockwise detent completed. -/
def entryCw (e : Byte) : Bool := e.getLsbD 4

/-- `e[5]`, counter-clockwise detent completed. -/
def entryCcw (e : Byte) : Bool := e.getLsbD 5

/-- I1 and I3 of R83 for one entry: not both flags, and bits 7:6 zero. -/
def entryOk (e : Byte) : Bool := entryFlags e != 0b11#2 && e.extractLsb' 6 2 == 0#2

/-- The invariants of R83 for a table (I2 holds by the type). -/
def tableOk (t : QTable) : Bool := t.toList.all fun row => row.toList.all entryOk

/-- The default table of R82: rows are the states START, CW_FINAL, CW_BEGIN, CW_NEXT, CCW_BEGIN, CCW_FINAL,
CCW_NEXT and the nine unused ones. PRESUMED by the spec itself (D4): see log 2. -/
def defaultTable : QTable :=
  #v[ #v[0x00#8, 0x02#8, 0x04#8, 0x00#8],
      #v[0x03#8, 0x00#8, 0x01#8, 0x10#8],
      #v[0x03#8, 0x02#8, 0x00#8, 0x00#8],
      #v[0x03#8, 0x02#8, 0x01#8, 0x00#8],
      #v[0x06#8, 0x00#8, 0x04#8, 0x00#8],
      #v[0x06#8, 0x05#8, 0x00#8, 0x20#8],
      #v[0x06#8, 0x05#8, 0x04#8, 0x00#8],
      #v[0x00#8, 0x00#8, 0x00#8, 0x00#8],
      #v[0x00#8, 0x00#8, 0x00#8, 0x00#8],
      #v[0x00#8, 0x00#8, 0x00#8, 0x00#8],
      #v[0x00#8, 0x00#8, 0x00#8, 0x00#8],
      #v[0x00#8, 0x00#8, 0x00#8, 0x00#8],
      #v[0x00#8, 0x00#8, 0x00#8, 0x00#8],
      #v[0x00#8, 0x00#8, 0x00#8, 0x00#8],
      #v[0x00#8, 0x00#8, 0x00#8, 0x00#8],
      #v[0x00#8, 0x00#8, 0x00#8, 0x00#8] ]

end Sys2Proof.Machine
end

