-- ==== Sys2Proof/Config.lean ====
section
/-!
DEFINITION. What is fixed for a block: the fixed parameters of 00_scope.md R1 as constants, and the open
parameters of R2 as plain data that State carries, so that a claim for every state is a claim for every value
of them (log 1). No value of the spec is undefined, so there is no free value.
-/

namespace Sys2Proof

/-- MAX, the upper clamp of both setpoints (R1). -/
def maxSp : Nat := 5000

/-- QUIET_TICKS (R1). -/
def quietTicks : Nat := 400

/-- RXCAP, the capacity of the receive buffer (R1). -/
def rxCap : Nat := 15

/-- CRC_INIT (R1). -/
def crcInitial : Word := 0xFFFF#16

/-- CRC_POLY, reflected (R1). -/
def crcPoly : Word := 0xA001#16

/-- The function code of a read request (R67). -/
def funcRead : Byte := 0x03#8

/-- The function code of a write request (R68). -/
def funcWrite : Byte := 0x06#8

/-- The slave address the system uses (R1, 20_memory.md R42). -/
def systemSlave : Byte := 0x01#8

/-- The device register of a channel's setpoint: 0x0000 voltage, 0x0001 current (20_memory.md R41). -/
def deviceReg : Chan → Word
  | .voltage => 0x0000#16
  | .current => 0x0001#16

/-- The device register of the CC status (20_memory.md R41). -/
def deviceRegCc : Word := 0x0008#16

/-- The open parameters (R2).

* `tickW` is TICK_W, the width of the tick counter and of the settle references.
* `qtable` is QTABLE; a table that breaks R83 is refused by the step.
* `ccClear` gives CC_DECODE: the status bytes beside 0x00 and 0x01 that it maps to 0 (log 10). -/
structure Config where
  tickW   : Nat
  qtable  : Machine.QTable
  ccClear : List Byte
deriving DecidableEq, Repr

/-- The defaults of R2: TICK_W = 32, the table of R82, and CC_DECODE(b) = (b != 0). Log 2. -/
def Config.default : Config := { tickW := 32, qtable := Machine.defaultTable, ccClear := [] }

end Sys2Proof
end

