-- ==== Sys2Proof/Machine/Crc16.lean ====
section
/-!
DEFINITION. The function CRC16 of 41_crc.md R100, and the placement and check of a frame's CRC (R103, R105).
-/

namespace Sys2Proof.Machine

/-- One shift of CrcStep: right by one, with an exclusive-or by the polynomial when the low bit was set. -/
def crcShift (c : Word) : Word := if c.getLsbD 0 then (c >>> 1) ^^^ crcPoly else c >>> 1

/-- `CrcStep(c, b)` (R100): exclusive-or into the low byte, then eight shifts. -/
def crcStep (c : Word) (b : Byte) : Word := Nat.repeat crcShift 8 (c ^^^ b.setWidth 16)

/-- `CRC16(bytes)` (R100). -/
def crc16 (bytes : List Byte) : Word := bytes.foldl crcStep crcInitial

end Sys2Proof.Machine
end

