-- ==== Sys2Proof/Machine/Frames.lean ====
section
/-!
DEFINITION. The wire frames as byte lists, index 0 first (30_encoding.md R67 to R70), and how a CRC is appended
and checked (41_crc.md R103, R105).
-/

namespace Sys2Proof.Machine

/-- Bytes 0 to 5 of a request with function code `func`: slave, function, register, count or value, the 16-bit
fields big-endian (R67, R68, R43). -/
def requestPayload (func slave : Byte) (reg x : Word) : List Byte :=
  [slave, func, hiByte reg, loByte reg, hiByte x, loByte x]

/-- Bytes 0 to 6 of a dual-register read response (R69). -/
def dualPayload (slave func count : Byte) (v i : Word) : List Byte :=
  [slave, func, count, hiByte v, loByte v, hiByte i, loByte i]

/-- Bytes 0 to 4 of a single-register read response (R70). -/
def singlePayload (slave func count : Byte) (status : Word) : List Byte :=
  [slave, func, count, hiByte status, loByte status]

/-- A payload followed by a CRC, low byte first (R44). -/
def withTrailer (payload : List Byte) (crc : Word) : List Byte := payload ++ [loByte crc, hiByte crc]

/-- A payload with its own CRC appended (R103). -/
def withCrc (payload : List Byte) : List Byte := withTrailer payload (crc16 payload)

/-- The check of R105 on a payload and the two bytes received after it, `lo` first. -/
def crcMatches (payload : List Byte) (lo hi : Byte) : Bool := concat hi lo == crc16 payload

end Sys2Proof.Machine
end

