-- ==== Sys2Proof/Syntax.lean ====
section
/-!
DEFINITION. The instructions: one constructor for each row of spec/opcode_table.json, the thirteen commands of
30_encoding.md R61 and the four wire frames of R67 to R70.
-/

namespace Sys2Proof

inductive Instr where
  /-- NOP (R84). -/
  | nop
  /-- QTICK p0, p1: the patterns of channel 0 and channel 1 (R85). -/
  | qtick (p0 p1 : Pattern)
  /-- QSEED c, v (R88). -/
  | qseed (c : Chan) (v : Word)
  /-- QMULT c, m: false selects x1, true selects x10 (R89). -/
  | qmult (c : Chan) (m : Bool)
  /-- QREAD c (R90). -/
  | qread (c : Chan)
  /-- CRCINIT (R101). -/
  | crcinit
  /-- CRCBYTE b (R102). -/
  | crcbyte (b : Byte)
  /-- FRMRD s, r, n (R110). -/
  | frmrd (slave : Byte) (reg count : Word)
  /-- FRMWR s, r, v (R111). -/
  | frmwr (slave : Byte) (reg value : Word)
  /-- RXCLR (R114). -/
  | rxclr
  /-- RXPUSH b (R115). -/
  | rxpush (b : Byte)
  /-- PARSE2 (R116). -/
  | parse2
  /-- PARSE1 (R117). -/
  | parse1
  /-- The read request frame on the wire (R67); its CRC is a function of its fields. -/
  | mbReadReq (slave : Byte) (reg count : Word)
  /-- The write request frame on the wire (R68); its CRC is a function of its fields. -/
  | mbWriteReq (slave : Byte) (reg value : Word)
  /-- The dual-register read response on the wire (R69), with the CRC it carries. -/
  | mbRead2Resp (slave func count : Byte) (v i crc : Word)
  /-- The single-register read response on the wire (R70), with the CRC it carries. -/
  | mbRead1Resp (slave func count : Byte) (status crc : Word)
deriving DecidableEq, Repr

end Sys2Proof
end

