-- ==== Sys2Proof/WellFormed.lean ====
section
/-!
DEFINITION. Which instructions are well formed. The operand types of the thirteen commands and of the two
requests admit only values the encoding of 30_encoding.md R61 admits, so each of those terms is well formed. A
response frame carries the CRC it was received with, and is well formed when that is the CRC of its payload
(41_crc.md R105). An ill-formed response still runs: its parse fails (42_framer.md R116, R117).
-/

namespace Sys2Proof

/-- R105 on the two response frames; true for every other instruction. -/
def WellFormed : Instr → Bool
  | .nop => true
  | .qtick _ _ => true
  | .qseed _ _ => true
  | .qmult _ _ => true
  | .qread _ => true
  | .crcinit => true
  | .crcbyte _ => true
  | .frmrd _ _ _ => true
  | .frmwr _ _ _ => true
  | .rxclr => true
  | .rxpush _ => true
  | .parse2 => true
  | .parse1 => true
  | .mbReadReq _ _ _ => true
  | .mbWriteReq _ _ _ => true
  | .mbRead2Resp s f n v i k => k == Machine.crc16 (Machine.dualPayload s f n v i)
  | .mbRead1Resp s f n st k => k == Machine.crc16 (Machine.singlePayload s f n st)

end Sys2Proof
end

