-- ==== Sys2Proof/Decode.lean ====
section
/-!
DEFINITION. The decoder and the encoder (30_encoding.md R60 to R70). Decoding is total: a packet is an
instruction or is rejected under a name.
-/

namespace Sys2Proof

/-- Why a packet is no instruction. The first two are the two causes of an illegal command (R66); the others
concern a byte sequence offered as one wire frame. -/
inductive DecodeError where
  /-- `op` is not in the table of R61. -/
  | unassignedOp
  /-- A reserved field or bit of R61 is not zero. -/
  | reservedNotZero
  /-- The byte sequence has the length of no frame of R67 to R70. -/
  | frameLength
  /-- A sequence of 8 bytes whose function code is neither 0x03 nor 0x06 (R67, R68). -/
  | requestFunction
  /-- A sequence of 8 bytes whose last two are not the CRC of the first six (R67, R68, R103). -/
  | requestCrc
deriving DecidableEq, Repr

/-- `op`, bits 47:40 (R60). -/
def opField (w : CmdWord) : Byte := w.extractLsb' 40 8

/-- `a`, bits 39:32 (R60). -/
def aField (w : CmdWord) : Byte := w.extractLsb' 32 8

/-- `h`, bits 31:16 (R60). -/
def hField (w : CmdWord) : Word := w.extractLsb' 16 16

/-- `l`, bits 15:0 (R60). -/
def lField (w : CmdWord) : Word := w.extractLsb' 0 16

/-- One row of R61 for given operand fields: the operation code, whether the row's reserved fields and bits are zero,
and the instruction. -/
structure OpRow where
  op    : Byte
  clear : Bool
  instr : Instr
deriving DecidableEq, Repr

/-- The table of R61 on the operand fields `a`, `h`, `l`. -/
def opRows (a : Byte) (h l : Word) : List OpRow :=
  [ ⟨0x00#8, a == 0#8 && h == 0#16 && l == 0#16, .nop⟩,
    ⟨0x01#8, a.extractLsb' 4 4 == 0#4 && h == 0#16 && l == 0#16, .qtick (a.extractLsb' 0 2) (a.extractLsb' 2 2)⟩,
    ⟨0x02#8, a.extractLsb' 1 7 == 0#7 && h == 0#16, .qseed (Machine.chanOfBit (a.extractLsb' 0 1)) l⟩,
    ⟨0x03#8, a.extractLsb' 1 7 == 0#7 && h == 0#16 && l.extractLsb' 1 15 == 0#15,
      .qmult (Machine.chanOfBit (a.extractLsb' 0 1)) (l.getLsbD 0)⟩,
    ⟨0x04#8, a.extractLsb' 1 7 == 0#7 && h == 0#16 && l == 0#16, .qread (Machine.chanOfBit (a.extractLsb' 0 1))⟩,
    ⟨0x10#8, a == 0#8 && h == 0#16 && l == 0#16, .crcinit⟩,
    ⟨0x11#8, h == 0#16 && l == 0#16, .crcbyte a⟩,
    ⟨0x20#8, true, .frmrd a h l⟩,
    ⟨0x21#8, true, .frmwr a h l⟩,
    ⟨0x28#8, a == 0#8 && h == 0#16 && l == 0#16, .rxclr⟩,
    ⟨0x29#8, h == 0#16 && l == 0#16, .rxpush a⟩,
    ⟨0x2A#8, a == 0#8 && h == 0#16 && l == 0#16, .parse2⟩,
    ⟨0x2B#8, a == 0#8 && h == 0#16 && l == 0#16, .parse1⟩ ]

/-- Decoding the four fields: the row with this operation code, if its reserved bits are zero (R61, R66). -/
def decodeFields (op a : Byte) (h l : Word) : Except DecodeError Instr :=
  match (opRows a h l).find? (fun r => r.op == op) with
  | some r => if r.clear then .ok r.instr else .error .reservedNotZero
  | none => .error .unassignedOp

/-- Decoding a command word (R60, R61, R66). -/
def decodeCommand (w : CmdWord) : Except DecodeError Instr :=
  decodeFields (opField w) (aField w) (hField w) (lField w)

/-- Decoding the bytes of one wire frame: 8 bytes are a request (R67, R68), 9 and 7 a response (R69, R70). A
response keeps the CRC it carries, right or wrong. -/
def decodeFrame : List Byte → Except DecodeError Instr
  | [s, f, rh, rl, xh, xl, cl, ch] =>
    if !Machine.crcMatches [s, f, rh, rl, xh, xl] cl ch then .error .requestCrc
    else if f = funcRead then .ok (.mbReadReq s (Machine.concat rh rl) (Machine.concat xh xl))
    else if f = funcWrite then .ok (.mbWriteReq s (Machine.concat rh rl) (Machine.concat xh xl))
    else .error .requestFunction
  | [s, f, n, vh, vl, ih, il, cl, ch] =>
    .ok (.mbRead2Resp s f n (Machine.concat vh vl) (Machine.concat ih il) (Machine.concat ch cl))
  | [s, f, n, sh, sl, cl, ch] => .ok (.mbRead1Resp s f n (Machine.concat sh sl) (Machine.concat ch cl))
  | _ => .error .frameLength

/-- Decoding what is offered to the block. -/
def decode : Packet → Except DecodeError Instr
  | .command w => decodeCommand w
  | .frame bytes => decodeFrame bytes

/-- The packet an instruction of spec/opcode_table.json's numbering stands for: up to 48 bits are one command
word; 56, 64 and 72 bits are the bytes of a frame, the first byte least significant (log 14). -/
def packetOfTableWord (nbits w : Nat) : Option Packet :=
  if nbits ≤ 48 then some (.command (BitVec.ofNat 48 w))
  else if nbits = 56 then some (.frame (Machine.bytesOfNat 7 w))
  else if nbits = 64 then some (.frame (Machine.bytesOfNat 8 w))
  else if nbits = 72 then some (.frame (Machine.bytesOfNat 9 w))
  else none

/-- What the decoder reads from an instruction whose bits are `w` in the opcode table's numbering. -/
def decodeTableWord (nbits w : Nat) : Option Instr :=
  match packetOfTableWord nbits w with
  | some p => (decode p).toOption
  | none => none

/-- A command word from its four fields (R60). -/
def commandWord (op a : Byte) (h l : Word) : CmdWord := op ++ a ++ h ++ l

/-- The `a` operand that names a channel: `a[0] = c`, `a[7:1] = 0` (R61). -/
def chanOperand (c : Chan) : Byte := 0#7 ++ Machine.chanBit c

/-- The encoder: the command word (R61, R72) or the frame bytes (R67 to R70) of an instruction. -/
def encode : Instr → Packet
  | .nop => .command (commandWord 0x00#8 0#8 0#16 0#16)
  | .qtick p0 p1 => .command (commandWord 0x01#8 (0#4 ++ p1 ++ p0) 0#16 0#16)
  | .qseed c v => .command (commandWord 0x02#8 (chanOperand c) 0#16 v)
  | .qmult c m => .command (commandWord 0x03#8 (chanOperand c) 0#16 (0#15 ++ BitVec.ofBool m))
  | .qread c => .command (commandWord 0x04#8 (chanOperand c) 0#16 0#16)
  | .crcinit => .command (commandWord 0x10#8 0#8 0#16 0#16)
  | .crcbyte b => .command (commandWord 0x11#8 b 0#16 0#16)
  | .frmrd s r n => .command (commandWord 0x20#8 s r n)
  | .frmwr s r v => .command (commandWord 0x21#8 s r v)
  | .rxclr => .command (commandWord 0x28#8 0#8 0#16 0#16)
  | .rxpush b => .command (commandWord 0x29#8 b 0#16 0#16)
  | .parse2 => .command (commandWord 0x2A#8 0#8 0#16 0#16)
  | .parse1 => .command (commandWord 0x2B#8 0#8 0#16 0#16)
  | .mbReadReq s r n => .frame (Machine.withCrc (Machine.requestPayload funcRead s r n))
  | .mbWriteReq s r v => .frame (Machine.withCrc (Machine.requestPayload funcWrite s r v))
  | .mbRead2Resp s f n v i k => .frame (Machine.withTrailer (Machine.dualPayload s f n v i) k)
  | .mbRead1Resp s f n st k => .frame (Machine.withTrailer (Machine.singlePayload s f n st) k)

/-- One row of R62: a word `w` selects the row when `w & mask == pattern`. -/
structure MatchRow where
  mnemonic : String
  pattern  : CmdWord
  mask     : CmdWord
deriving DecidableEq, Repr

/-- Whether a word selects a row (R62). -/
def MatchRow.selects (r : MatchRow) (w : CmdWord) : Bool := w &&& r.mask == r.pattern

/-- The table of R62, transcribed from its own match and mask columns; the decoder above is written from R61. -/
def matchTable : List MatchRow :=
  [ ⟨"NOP", 0x000000000000#48, 0xFFFFFFFFFFFF#48⟩,
    ⟨"QTICK", 0x010000000000#48, 0xFFF0FFFFFFFF#48⟩,
    ⟨"QSEED", 0x020000000000#48, 0xFFFEFFFF0000#48⟩,
    ⟨"QMULT", 0x030000000000#48, 0xFFFEFFFFFFFE#48⟩,
    ⟨"QREAD", 0x040000000000#48, 0xFFFEFFFFFFFF#48⟩,
    ⟨"CRCINIT", 0x100000000000#48, 0xFFFFFFFFFFFF#48⟩,
    ⟨"CRCBYTE", 0x110000000000#48, 0xFF00FFFFFFFF#48⟩,
    ⟨"FRMRD", 0x200000000000#48, 0xFF0000000000#48⟩,
    ⟨"FRMWR", 0x210000000000#48, 0xFF0000000000#48⟩,
    ⟨"RXCLR", 0x280000000000#48, 0xFFFFFFFFFFFF#48⟩,
    ⟨"RXPUSH", 0x290000000000#48, 0xFF00FFFFFFFF#48⟩,
    ⟨"PARSE2", 0x2A0000000000#48, 0xFFFFFFFFFFFF#48⟩,
    ⟨"PARSE1", 0x2B0000000000#48, 0xFFFFFFFFFFFF#48⟩ ]

/-- The mnemonic of an instruction, as spec/opcode_table.json spells it. -/
def mnemonicOf : Instr → String
  | .nop => "NOP"
  | .qtick _ _ => "QTICK"
  | .qseed _ _ => "QSEED"
  | .qmult _ _ => "QMULT"
  | .qread _ => "QREAD"
  | .crcinit => "CRCINIT"
  | .crcbyte _ => "CRCBYTE"
  | .frmrd _ _ _ => "FRMRD"
  | .frmwr _ _ _ => "FRMWR"
  | .rxclr => "RXCLR"
  | .rxpush _ => "RXPUSH"
  | .parse2 => "PARSE2"
  | .parse1 => "PARSE1"
  | .mbReadReq _ _ _ => "MB_READ_REQ"
  | .mbWriteReq _ _ _ => "MB_WRITE_REQ"
  | .mbRead2Resp _ _ _ _ _ _ => "MB_READ2_RESP"
  | .mbRead1Resp _ _ _ _ _ => "MB_READ1_RESP"

end Sys2Proof
end

