-- ==== Sys2Proof/Machine/State.lean ====
section
/-!
DEFINITION. The state of the block: every register of 10_state.md, the open parameters of 00_scope.md R2, the
level of the reset pin, and the list of inputs that have arrived (log 3). Plain data. Reset is 70 R160.
-/

namespace Sys2Proof.Machine

/-- Why a step stops the machine. The block raises no trap and no exception, and its one error is the sticky bit
`cmd_err`, an effect (60_exceptions.md R140, R141): no step faults, so there is no constructor. Safe. -/
inductive Fault where
deriving DecidableEq, Repr

/-- Why a step has no meaning. -/
inductive Refusal where
  /-- Raised by `exec`'s arm of an instruction without a meaning. No arm raises it in this model. Safe. -/
  | notModelled (mnemonic : String)
  /-- Raised by the step, for every input, when the parameter QTABLE breaks the invariants of 40_qdec.md R83:
  "a model refuses a table that does not". Safe. -/
  | badTransitionTable
  /-- Raised by the step when a byte sequence offered as one wire frame is none of the frames of 30_encoding.md
  R67 to R70 (log 7). No command word raises it. Safe. -/
  | notAFrame
deriving DecidableEq, Repr

/-- The registers of one decoder channel (10_state.md R13 to R17). -/
structure Channel where
  /-- `qs[c]`, the encoder state. -/
  qs  : BitVec 4
  /-- `evt[c]`, the direction latch: 0b00 NONE, 0b01 CW, 0b10 CCW (R14, R65). -/
  evt : BitVec 2
  /-- `sp[c]`, the setpoint. -/
  sp  : Word
  /-- `ref[c]`, the settle reference, TICK_W bits (log 9). -/
  ref : Nat
  /-- `mul[c]`: false is x1, true is x10 (R16). -/
  mul : Bool
deriving DecidableEq, Repr

/-- The read-out latch (10_state.md R19). -/
structure ReadOut where
  ch    : Chan
  sp    : Word
  ref   : Nat
  tick  : Nat
  quiet : Bool
deriving DecidableEq, Repr

/-- The state of the block. -/
structure State where
  /-- The open parameters (00_scope.md R2); no step changes them. -/
  cfg     : Config
  /-- The registers of channel 0. -/
  volt    : Channel
  /-- The registers of channel 1. -/
  curr    : Channel
  /-- `tick`, TICK_W bits (R18; log 9). -/
  tick    : Nat
  /-- `rd_ch`, `rd_sp`, `rd_ref`, `rd_tick`, `rd_quiet` (R19). -/
  rd      : ReadOut
  /-- `crc` (R20). -/
  crc     : Word
  /-- `tx[0..7]` (R21). -/
  tx      : Vector Byte 8
  /-- `tx_valid` (R21). -/
  txValid : Bool
  /-- `rx[0..14]` (R22). -/
  rx      : Vector Byte 15
  /-- `rx_cnt` (R22). -/
  rxCnt   : BitVec 4
  /-- `rx_ovf` (R22). -/
  rxOvf   : Bool
  /-- `res_v` (R23). -/
  resV    : Word
  /-- `res_i` (R23). -/
  resI    : Word
  /-- `res_cc`, which drives the pin `cc_led` (R23, R149). -/
  resCc   : Bool
  /-- `parse_ok` (R24). -/
  parseOk : Bool
  /-- `cmd_err`, sticky (R26). -/
  cmdErr  : Bool
  /-- The level of the reset pin `rst`, true when asserted (R160). -/
  rst     : Bool
  /-- What has arrived and is not yet taken, oldest first (the model's own field, log 3). -/
  inputs  : List Input
deriving DecidableEq, Repr

/-- A channel after reset (R160). -/
def Channel.reset : Channel := { qs := 0x0#4, evt := 0b00#2, sp := 0#16, ref := 0, mul := false }

/-- The read-out latch after reset (R160). -/
def ReadOut.reset : ReadOut := { ch := .voltage, sp := 0#16, ref := 0, tick := 0, quiet := false }

/-- `Reset()` of R160 for a block with the given parameters, with rst released and the given inputs waiting. -/
def State.resetWith (cfg : Config) (inputs : List Input) : State where
  cfg     := cfg
  volt    := Channel.reset
  curr    := Channel.reset
  tick    := 0
  rd      := ReadOut.reset
  crc     := 0xFFFF#16
  tx      := Vector.replicate 8 0x00#8
  txValid := false
  rx      := Vector.replicate 15 0x00#8
  rxCnt   := 0#4
  rxOvf   := false
  resV    := 0#16
  resI    := 0#16
  resCc   := false
  parseOk := false
  cmdErr  := false
  rst     := false
  inputs  := inputs

/-- The machine right after reset (R160), with the default parameters (R2), waiting for its first command (R161). -/
def State.reset : State := State.resetWith Config.default []

end Sys2Proof.Machine
end

