-- ==== Sys2Proof/Machine/Operands.lean ====
section
/-!
DEFINITION. What the operands of a command select and the values computed from them: the step of a multiplier,
the clamp, the elapsed ticks, the CC decode, a request frame (10_state.md R16, 00_scope.md R4, 40_qdec.md R86,
R90, 42_framer.md R110, R111, R117).
-/

namespace Sys2Proof.Machine

/-- `step(c)`: 10 when `mul[c]` is 1, else 1 (R16). -/
def stepSize (mul : Bool) : Nat := if mul then 10 else 1

/-- `clamp(v, lo, hi)` on exact integers (R4). -/
def clamp (v lo hi : Int) : Int := min hi (max lo v)

/-- `clamp(v, 0, MAX)` as a setpoint. -/
def clampSp (v : Int) : Word := BitVec.ofInt 16 (clamp v 0 maxSp)

/-- The tick counter after one increment modulo 2^TICK_W (R18). -/
def nextTick (cfg : Config) (tick : Nat) : Nat := (tick + 1) % 2 ^ cfg.tickW

/-- `(tick - ref) mod 2^TICK_W`, on exact integers (R90). -/
def elapsed (cfg : Config) (tick ref : Nat) : Nat := (((tick : Int) - (ref : Int)) % ((2 ^ cfg.tickW : Nat) : Int)).toNat

/-- `CC_DECODE(b)` (R117): 0x00 is 0, 0x01 is 1, any other byte is 1 unless the parameter maps it to 0 (log 10). -/
def ccDecode (cfg : Config) (b : Byte) : Bool :=
  if b = 0x00#8 then false else if b = 0x01#8 then true else !cfg.ccClear.contains b

/-- The eight bytes of a request frame, CRC low byte first (R110, R111). -/
def requestFrame (func slave : Byte) (reg x : Word) : Vector Byte 8 :=
  #v[slave, func, hiByte reg, loByte reg, hiByte x, loByte x,
     loByte (crc16 (requestPayload func slave reg x)), hiByte (crc16 (requestPayload func slave reg x))]

/-- The registers of a channel. -/
def State.chan (s : State) : Chan → Channel
  | .voltage => s.volt
  | .current => s.curr

/-- The pattern a QTICK carries for a channel (R61, R63). -/
def patternOf (p0 p1 : Pattern) : Chan → Pattern
  | .voltage => p0
  | .current => p1

/-- `rx[0..n-1]`. -/
def rxPrefix (s : State) (n : Nat) : List Byte := s.rx.toList.take n

end Sys2Proof.Machine
end

