-- ==== Sys2Proof/Machine/Flags.lean ====
section
/-!
DEFINITION. The status flags the commands compute (10_state.md R25): the direction latch, the quiet flag, the
full test of the receive buffer and the two CRC verdicts. The block has no condition codes.
-/

namespace Sys2Proof.Machine

/-- `evt[c]` after a lookup gave the entry `e` (R65). -/
def evtFlag (e : Byte) : BitVec 2 := entryFlags e

/-- `rd_quiet`: at least QUIET_TICKS ticks since the reference (R90). -/
def quietFlag (cfg : Config) (tick ref : Nat) : Bool := decide (quietTicks ≤ elapsed cfg tick ref)

/-- Whether the receive buffer has room for one more byte (R115). -/
def rxHasRoom (s : State) : Bool := decide (s.rxCnt.toNat < rxCap)

/-- The verdict of PARSE2: `{rx[8], rx[7]} == CRC16(rx[0..6])` (R116, R105). -/
def dualOk (s : State) : Bool := crcMatches (rxPrefix s 7) s.rx[7] s.rx[8]

/-- The verdict of PARSE1: `{rx[6], rx[5]} == CRC16(rx[0..4])` (R117, R105). -/
def singleOk (s : State) : Bool := crcMatches (rxPrefix s 5) s.rx[5] s.rx[6]

end Sys2Proof.Machine
end

