-- ==== Sys2Proof/Machine/Ops.lean ====
section
/-!
DEFINITION. The named operations on the state. Each register is written by one of them, with the writers of
10_state.md's table. The block takes no exception and returns from none (60_exceptions.md R140, R145): its one
shared error operation is `State.cmdError` (R141).
-/

namespace Sys2Proof.Machine

/-- Write the registers of one channel. -/
def State.setChan (s : State) (c : Chan) (ch : Channel) : State :=
  match c with
  | .voltage => { s with volt := ch }
  | .current => { s with curr := ch }

/-- Write `tick`. -/
def State.setTick (s : State) (t : Nat) : State := { s with tick := t }

/-- Write the five fields of the read-out latch together (R19). -/
def State.setRd (s : State) (rd : ReadOut) : State := { s with rd := rd }

/-- Write `crc`. -/
def State.setCrc (s : State) (c : Word) : State := { s with crc := c }

/-- Overwrite all of `tx` and set `tx_valid` (R21). -/
def State.loadTx (s : State) (f : Vector Byte 8) : State := { s with tx := f, txValid := true }

/-- Zero the receive buffer, its count and its overflow flag (R114). -/
def State.clearRx (s : State) : State :=
  { s with rx := Vector.replicate 15 0x00#8, rxCnt := 0#4, rxOvf := false }

/-- Append one received byte, or set `rx_ovf` and discard it (R115). -/
def State.pushRx (s : State) (b : Byte) : State :=
  if rxHasRoom s then { s with rx := s.rx.setIfInBounds s.rxCnt.toNat b, rxCnt := s.rxCnt + 1#4 }
  else { s with rxOvf := true }

/-- A successful dual parse (R116). -/
def State.setDual (s : State) (v i : Word) : State := { s with resV := v, resI := i, parseOk := true }

/-- A successful single parse (R117). -/
def State.setCc (s : State) (b : Bool) : State := { s with resCc := b, parseOk := true }

/-- A failed parse: the results stay (R116, R117, R120). -/
def State.failParse (s : State) : State := { s with parseOk := false }

/-- `CmdError` (R141): `cmd_err` is set and nothing else changes; the next command runs normally (R145). -/
def State.cmdError (s : State) : State := { s with cmdErr := true }

/-- Write the list of waiting inputs. -/
def State.setInputs (s : State) (l : List Input) : State := { s with inputs := l }

/-- Write the level of the reset pin. -/
def State.setRst (s : State) (level : Bool) : State := { s with rst := level }

/-- The new value of a channel in ApplyEvent (R86): `sp` moved by `dir` steps on exact integers and clamped, and
the settle reference set to `t`. Reads are of `old`, the channel before the command (00_scope.md R5). -/
def Channel.applyEvent (ch old : Channel) (dir : Int) (t : Nat) : Channel :=
  { ch with sp := clampSp ((old.sp.toNat : Int) + dir * (stepSize old.mul : Int)), ref := t }

/-- One channel's part of QTICK (R85) with the incremented tick `t` and the channel's pattern `p`. -/
def Channel.tickWith (cfg : Config) (t : Nat) (p : Pattern) (ch : Channel) : Channel :=
  let e := lookup cfg.qtable ch.qs p
  let looked : Channel := { ch with qs := entryNext e, evt := evtFlag e }
  let cw := if entryCw e then looked.applyEvent ch 1 t else looked
  if entryCcw e then cw.applyEvent ch (-1) t else cw

/-- The snapshot QREAD takes of a channel (R90). -/
def State.snapshot (s : State) (c : Chan) : ReadOut :=
  { ch := c
    sp := (s.chan c).sp
    ref := (s.chan c).ref
    tick := s.tick
    quiet := quietFlag s.cfg s.tick (s.chan c).ref }

/-- Push the bytes of a frame in order (R73 RXFRAME after its RXCLR, R151 step 4). -/
def State.pushAll (s : State) (bytes : List Byte) : State := bytes.foldl State.pushRx s

/-- The parse of PARSE2 (R116). -/
def State.parseDual (s : State) : State :=
  if dualOk s then s.setDual (concat s.rx[3] s.rx[4]) (concat s.rx[5] s.rx[6]) else s.failParse

/-- The parse of PARSE1 (R117). -/
def State.parseSingle (s : State) : State :=
  if singleOk s then s.setCc (ccDecode s.cfg s.rx[4]) else s.failParse

/-- A new level of the reset pin (R160). Release after assertion gives `Reset()`; QTABLE and the other parameters
are not affected, and the inputs that wait stay. Assertion changes no register (log 5). -/
def State.driveRst (s : State) (level : Bool) : State :=
  if level then s.setRst true
  else if s.rst then State.resetWith s.cfg s.inputs
  else s

end Sys2Proof.Machine
end

