-- ==== Sys2Proof/Machine/Crc.lean ====
section
/-!
DEFINITION. The meanings of the CRC generator commands (41_crc.md).
-/

namespace Sys2Proof.Machine

/-- CRCINIT (R101). -/
def execCrcinit (s : State) : Host.Outcome State Fault Refusal := .next (s.setCrc crcInitial)

/-- CRCBYTE (R102). -/
def execCrcbyte (b : Byte) (s : State) : Host.Outcome State Fault Refusal := .next (s.setCrc (crcStep s.crc b))

end Sys2Proof.Machine
end

