-- ==== Sys2Proof/Machine/Framer.lean ====
section
/-!
DEFINITION. The meanings of the Modbus-RTU framer commands (42_framer.md). None of them reads or changes `crc`.
-/

namespace Sys2Proof.Machine

/-- FRMRD (R110). -/
def execFrmrd (slave : Byte) (reg count : Word) (s : State) : Host.Outcome State Fault Refusal :=
  .next (s.loadTx (requestFrame funcRead slave reg count))

/-- FRMWR (R111, R112). -/
def execFrmwr (slave : Byte) (reg value : Word) (s : State) : Host.Outcome State Fault Refusal :=
  .next (s.loadTx (requestFrame funcWrite slave reg value))

/-- RXCLR (R114). -/
def execRxclr (s : State) : Host.Outcome State Fault Refusal := .next s.clearRx

/-- RXPUSH (R115). -/
def execRxpush (b : Byte) (s : State) : Host.Outcome State Fault Refusal := .next (s.pushRx b)

/-- PARSE2 (R116). -/
def execParse2 (s : State) : Host.Outcome State Fault Refusal := .next s.parseDual

/-- PARSE1 (R117). -/
def execParse1 (s : State) : Host.Outcome State Fault Refusal := .next s.parseSingle

end Sys2Proof.Machine
end

