-- ==== Sys2Proof/Machine/Qdec.lean ====
section
/-!
DEFINITION. The meanings of the quadrature decoder commands (40_qdec.md).
-/

namespace Sys2Proof.Machine

/-- NOP (R84): nothing changes; `tick` does not advance. -/
def execNop (s : State) : Host.Outcome State Fault Refusal := .next s

/-- QTICK (R85, R86): the tick counter advances, then each channel makes one lookup with its own pattern. -/
def execQtick (p0 p1 : Pattern) (s : State) : Host.Outcome State Fault Refusal :=
  let t := nextTick s.cfg s.tick
  .next (((s.setTick t).setChan .voltage ((s.chan .voltage).tickWith s.cfg t (patternOf p0 p1 .voltage))).setChan
    .current ((s.chan .current).tickWith s.cfg t (patternOf p0 p1 .current)))

/-- QSEED (R88): the clamped value goes into the setpoint, and no other register of the channel changes. -/
def execQseed (c : Chan) (v : Word) (s : State) : Host.Outcome State Fault Refusal :=
  .next (s.setChan c { s.chan c with sp := clampSp (v.toNat : Int) })

/-- QMULT (R89). -/
def execQmult (c : Chan) (m : Bool) (s : State) : Host.Outcome State Fault Refusal :=
  .next (s.setChan c { s.chan c with mul := m })

/-- QREAD (R90): the five fields of the latch from one state. -/
def execQread (c : Chan) (s : State) : Host.Outcome State Fault Refusal :=
  .next (s.setRd (s.snapshot c))

end Sys2Proof.Machine
end

