-- ==== Sys2Proof/Machine/Wire.lean ====
section
/-!
DEFINITION. The meanings of the opcode table's four wire frames. A frame is no command word: the table names the
command that builds or parses it, and its constructor means that frame passing through the block (log 7, log 8).
-/

namespace Sys2Proof.Machine

/-- MB_READ_REQ, "built by FRMRD" (R67, R110): the block builds this frame. -/
def execMbReadReq (slave : Byte) (reg count : Word) (s : State) : Host.Outcome State Fault Refusal :=
  .next (s.loadTx (requestFrame funcRead slave reg count))

/-- MB_WRITE_REQ, "built by FRMWR" (R68, R111): the block builds this frame. -/
def execMbWriteReq (slave : Byte) (reg value : Word) (s : State) : Host.Outcome State Fault Refusal :=
  .next (s.loadTx (requestFrame funcWrite slave reg value))

/-- MB_READ2_RESP, "parsed by PARSE2" (R69, R116): the nine bytes are received into a cleared buffer (RXFRAME of
R73) and parsed. -/
def execMbRead2Resp (slave func count : Byte) (v i crc : Word) (s : State) : Host.Outcome State Fault Refusal :=
  .next (s.clearRx.pushAll (withTrailer (dualPayload slave func count v i) crc)).parseDual

/-- MB_READ1_RESP, "parsed by PARSE1" (R70, R117): the seven bytes are received into a cleared buffer (RXFRAME of
R73) and parsed. -/
def execMbRead1Resp (slave func count : Byte) (status crc : Word) (s : State) : Host.Outcome State Fault Refusal :=
  .next (s.clearRx.pushAll (withTrailer (singlePayload slave func count status) crc)).parseSingle

end Sys2Proof.Machine
end

