-- ==== Sys2Proof/Machine/Dispatch.lean ====
section
/-!
DEFINITION. `exec`: one arm per constructor of Instr, each one call of its meaning.
-/

namespace Sys2Proof.Machine

def exec (i : Instr) (s : State) : Host.Outcome State Fault Refusal :=
  match i with
  -- the quadrature decoder
  | .nop => Sys2Proof.Machine.execNop s
  | .qtick p0 p1 => Sys2Proof.Machine.execQtick p0 p1 s
  | .qseed c v => Sys2Proof.Machine.execQseed c v s
  | .qmult c m => Sys2Proof.Machine.execQmult c m s
  | .qread c => Sys2Proof.Machine.execQread c s
  -- the CRC generator
  | .crcinit => Sys2Proof.Machine.execCrcinit s
  | .crcbyte b => Sys2Proof.Machine.execCrcbyte b s
  -- the framer
  | .frmrd slave reg count => Sys2Proof.Machine.execFrmrd slave reg count s
  | .frmwr slave reg value => Sys2Proof.Machine.execFrmwr slave reg value s
  | .rxclr => Sys2Proof.Machine.execRxclr s
  | .rxpush b => Sys2Proof.Machine.execRxpush b s
  | .parse2 => Sys2Proof.Machine.execParse2 s
  | .parse1 => Sys2Proof.Machine.execParse1 s
  -- the wire frames
  | .mbReadReq slave reg count => Sys2Proof.Machine.execMbReadReq slave reg count s
  | .mbWriteReq slave reg value => Sys2Proof.Machine.execMbWriteReq slave reg value s
  | .mbRead2Resp slave func count v i2 crc => Sys2Proof.Machine.execMbRead2Resp slave func count v i2 crc s
  | .mbRead1Resp slave func count status crc => Sys2Proof.Machine.execMbRead1Resp slave func count status crc s

end Sys2Proof.Machine
end

