-- ==== Sys2Proof/Machine/Accept.lean ====
section
/-!
DEFINITION. How the block takes one input (10_state.md R12, 20_memory.md R49, 60_exceptions.md R141, R145, R146,
70 R160, R161). The state handed to these operations no longer lists the input that is taken.
-/

namespace Sys2Proof.Machine

/-- A packet offered while rst is released. An instruction is executed, whichever agent issued it (R146). A
command word that is no instruction is illegal: CmdError (R66, R141). A byte sequence that is no frame of the
table is refused (log 7). -/
def State.takePacket (s : State) (p : Packet) : Host.Outcome State Fault Refusal :=
  match decode p, p with
  | .ok i, _ => exec i s
  | .error _, .command _ => .next s.cmdError
  | .error _, .frame _ => .refused .notAFrame

/-- One input. While rst is asserted no command is accepted (R160; log 5). -/
def State.takeInput (s : State) (inp : Input) : Host.Outcome State Fault Refusal :=
  match inp with
  | .rst level => .next (s.driveRst level)
  | .offer _ p => if s.rst then .next s else s.takePacket p

/-- One step: the oldest input is taken. With none the block waits (R161; log 4). A table that breaks R83 is
refused before anything else. -/
def State.advance (s : State) : Host.Outcome State Fault Refusal :=
  if tableOk s.cfg.qtable then
    match s.inputs with
    | [] => .next s
    | inp :: rest => (s.setInputs rest).takeInput inp
  else .refused .badTransitionTable

end Sys2Proof.Machine
end

