-- ==== Sys2Proof/Machine/Step.lean ====
section
/-!
DEFINITION. The step of the machine, and the placing of an instruction where the next step takes it from.
-/

namespace Sys2Proof.Machine

/-- One step of the block: one input taken (Machine/Accept.lean). -/
def step (s : State) : Host.Outcome State Fault Refusal := s.advance

/-- `s` with an instruction, in the opcode table's numbering, as the oldest input and rst released, so that the
next step takes exactly it (log 3). Where the numbering gives no packet, `s` itself. -/
def State.withFetchWord (s : State) (nbits w : Nat) : State :=
  match packetOfTableWord nbits w with
  | some p => { s with rst := false, inputs := .offer .host p :: s.inputs }
  | none => s

end Sys2Proof.Machine
end

