-- ==== Sys2Proof/Machine/Assembler.lean ====
section
/-!
DEFINITION. The assembly syntax of 30_encoding.md R72 and the pseudo-commands of R73. An operand outside its
range is refused, never truncated.
-/

namespace Sys2Proof.Machine

/-- One line of assembly: the thirteen commands (R72) and the six pseudo-commands (R73), operands as written. -/
inductive Asm where
  | nop
  | qtick (p0 p1 : Nat)
  | qseed (c v : Nat)
  | qmult (c : Nat) (x10 : Bool)
  | qread (c : Nat)
  | crcinit
  | crcbyte (b : Nat)
  | frmrd (s r n : Nat)
  | frmwr (s r v : Nat)
  | rxclr
  | rxpush (b : Nat)
  | parse2
  | parse1
  | reqDual
  | reqCc
  | reqWrv (v : Nat)
  | reqWri (v : Nat)
  | rxframe (bytes : List Nat)
  | crcof (bytes : List Nat)
deriving DecidableEq, Repr

/-- An operand as a field of `w` bits, refused when it does not fit. -/
def operand (w n : Nat) : Option (BitVec w) := if n < 2 ^ w then some (BitVec.ofNat w n) else none

/-- A channel operand, 0 or 1. -/
def chanOperandOf (n : Nat) : Option Chan := (operand 1 n).map chanOfBit

/-- Bytes, each in range. -/
def byteOperands : List Nat → Option (List Byte)
  | [] => some []
  | n :: ns =>
    match operand 8 n, byteOperands ns with
    | some b, some bs => some (b :: bs)
    | _, _ => none

/-- The commands a line assembles to (R72, R73), or none where an operand is out of range. -/
def Asm.expand : Asm → Option (List Instr)
  | .nop => some [.nop]
  | .qtick p0 p1 => do return [.qtick (← operand 2 p0) (← operand 2 p1)]
  | .qseed c v => do return [.qseed (← chanOperandOf c) (← operand 16 v)]
  | .qmult c m => do return [.qmult (← chanOperandOf c) m]
  | .qread c => do return [.qread (← chanOperandOf c)]
  | .crcinit => some [.crcinit]
  | .crcbyte b => do return [.crcbyte (← operand 8 b)]
  | .frmrd s r n => do return [.frmrd (← operand 8 s) (← operand 16 r) (← operand 16 n)]
  | .frmwr s r v => do return [.frmwr (← operand 8 s) (← operand 16 r) (← operand 16 v)]
  | .rxclr => some [.rxclr]
  | .rxpush b => do return [.rxpush (← operand 8 b)]
  | .parse2 => some [.parse2]
  | .parse1 => some [.parse1]
  | .reqDual => some [.frmrd systemSlave (deviceReg .voltage) 2#16]
  | .reqCc => some [.frmrd systemSlave deviceRegCc 1#16]
  | .reqWrv v => do return [.frmwr systemSlave (deviceReg .voltage) (← operand 16 v)]
  | .reqWri v => do return [.frmwr systemSlave (deviceReg .current) (← operand 16 v)]
  | .rxframe bytes => do return .rxclr :: (← byteOperands bytes).map .rxpush
  | .crcof bytes => do return .crcinit :: (← byteOperands bytes).map .crcbyte

/-- The words a line assembles to. -/
def Asm.words (a : Asm) : Option (List Packet) := a.expand.map (·.map encode)

/-- The value of a digit below `base`. -/
def digitOf (base : Nat) (ch : Char) : Option Nat :=
  let n := ch.toNat
  let v := if 48 ≤ n ∧ n ≤ 57 then n - 48
    else if 65 ≤ n ∧ n ≤ 70 then n - 55
    else if 97 ≤ n ∧ n ≤ 102 then n - 87
    else base
  if v < base then some v else none

/-- The value of a run of digits after `acc`. -/
def digitsFrom (base : Nat) : Nat → List Char → Option Nat
  | acc, [] => some acc
  | acc, ch :: rest =>
    match digitOf base ch with
    | some v => digitsFrom base (acc * base + v) rest
    | none => none

/-- A number in decimal, `0x` hex or `0b` binary (R72). -/
def parseNumber : List Char → Option Nat
  | '0' :: 'x' :: ch :: rest => digitsFrom 16 0 (ch :: rest)
  | '0' :: 'b' :: ch :: rest => digitsFrom 2 0 (ch :: rest)
  | [] => none
  | digits => digitsFrom 10 0 digits

/-- A run of characters without the spaces around it. -/
def trimSpaces (t : List Char) : List Char :=
  ((t.dropWhile (· == ' ')).reverse.dropWhile (· == ' ')).reverse

/-- The runs of characters between commas. -/
def splitCommas : List Char → List (List Char)
  | [] => [[]]
  | ch :: rest =>
    match splitCommas rest with
    | [] => [[]]
    | first :: more => if ch = ',' then [] :: first :: more else (ch :: first) :: more

/-- Operands separated by commas, the spaces around each dropped (R72). -/
def splitOperands (t : List Char) : List (List Char) := (splitCommas t).map trimSpaces

/-- All operands of a line as numbers. -/
def parseNumbers : List (List Char) → Option (List Nat)
  | [] => some []
  | t :: ts =>
    match parseNumber t, parseNumbers ts with
    | some n, some ns => some (n :: ns)
    | _, _ => none

/-- The multiplier name `x1` or `x10` of QMULT (R72). -/
def parseMultiplier (t : List Char) : Option Bool :=
  if t = ['x', '1'] then some false else if t = ['x', '1', '0'] then some true else none

/-- A line with numeric operands. -/
def lineOf (name : List Char) (ns : List Nat) : Option Asm :=
  match ns with
  | [b] =>
    if name = "QREAD".toList then some (.qread b)
    else if name = "CRCBYTE".toList then some (.crcbyte b)
    else if name = "RXPUSH".toList then some (.rxpush b)
    else if name = "REQ_WRV".toList then some (.reqWrv b)
    else if name = "REQ_WRI".toList then some (.reqWri b)
    else if name = "RXFRAME".toList then some (.rxframe ns)
    else if name = "CRCOF".toList then some (.crcof ns)
    else none
  | [x, y] =>
    if name = "QTICK".toList then some (.qtick x y)
    else if name = "QSEED".toList then some (.qseed x y)
    else if name = "RXFRAME".toList then some (.rxframe ns)
    else if name = "CRCOF".toList then some (.crcof ns)
    else none
  | [x, y, z] =>
    if name = "FRMRD".toList then some (.frmrd x y z)
    else if name = "FRMWR".toList then some (.frmwr x y z)
    else if name = "RXFRAME".toList then some (.rxframe ns)
    else if name = "CRCOF".toList then some (.crcof ns)
    else none
  | _ =>
    if name = "RXFRAME".toList then some (.rxframe ns)
    else if name = "CRCOF".toList then some (.crcof ns)
    else none

/-- A line without operands. -/
def bareLine (name : List Char) : Option Asm :=
  if name = "NOP".toList then some .nop
  else if name = "CRCINIT".toList then some .crcinit
  else if name = "RXCLR".toList then some .rxclr
  else if name = "PARSE2".toList then some .parse2
  else if name = "PARSE1".toList then some .parse1
  else if name = "REQ_DUAL".toList then some .reqDual
  else if name = "REQ_CC".toList then some .reqCc
  else none

/-- One line of assembly text (R72, R73). -/
def parseLine (line : List Char) : Option Asm :=
  let name := line.takeWhile (· != ' ')
  let rest := line.dropWhile (· != ' ')
  if rest.all (· == ' ') then bareLine name
  else
    match splitOperands rest with
    | [c, m] =>
      if name = "QMULT".toList then
        match parseNumber c, parseMultiplier m with
        | some n, some x10 => some (.qmult n x10)
        | _, _ => none
      else (parseNumbers [c, m]).bind (lineOf name)
    | ops => (parseNumbers ops).bind (lineOf name)

/-- The words one line of assembly text assembles to. -/
def assembleLine (line : String) : Option (List Packet) := (parseLine line.toList).bind Asm.words

end Sys2Proof.Machine
end

