-- ==== Sys2Proof/Machine/Contract.lean ====
section
/-!
DEFINITION. The contract of the two agents (60_exceptions.md R150 to R156), as an executable monitor: given what
the host has done so far and the block's state, whether the contract lets an agent issue the next input. It is
an assumption on the environment and no check of the block (R146); the step does not use it. Delays, the
transmission of `tx` and the sampling of pins are outside (log 12).
-/

namespace Sys2Proof.Machine

/-- How far a read transaction has come (R151): before RXCLR, before FRMRD, or receiving. -/
inductive ReadStage where
  | clear
  | request
  | receive
deriving DecidableEq, Repr

/-- What the host is doing (R154 to R156). -/
inductive Phase where
  /-- The dual read that is repeated until it succeeds (R154). -/
  | startup (stage : ReadStage)
  /-- QSEED of a channel with the value just read (R154). -/
  | seed (c : Chan)
  /-- QREAD of a channel at the start of its synchronisation (R155). -/
  | sync (c : Chan)
  /-- The write transaction of the value read, held for `hold` more ticks (R152, R155; log 19). -/
  | write (c : Chan) (v : Word) (hold : Nat)
  /-- The dual read that confirms it (R155). -/
  | confirm (c : Chan) (v : Word) (stage : ReadStage)
  /-- The CC read of every pass (R156). -/
  | poll (stage : ReadStage)
  /-- The end of a pass, where a button may still be handled (R156). -/
  | passEnd
deriving DecidableEq, Repr

/-- The host's own state (10_state.md R29): its phase, its shadow setpoints and the channels whose button it has
handled in this pass. No part of State. -/
structure HostView where
  phase      : Phase
  shadowVolt : Word
  shadowCurr : Word
  toggled    : List Chan
deriving DecidableEq, Repr

/-- The host after reset (R154). Its shadows have no value yet and are set by the seeding before they are read. -/
def HostView.start : HostView :=
  { phase := .startup .clear, shadowVolt := 0#16, shadowCurr := 0#16, toggled := [] }

/-- The shadow setpoint of a channel. -/
def HostView.shadow (v : HostView) : Chan → Word
  | .voltage => v.shadowVolt
  | .current => v.shadowCurr

/-- Set the shadow setpoint of a channel. -/
def HostView.setShadow (v : HostView) (c : Chan) (x : Word) : HostView :=
  match c with
  | .voltage => { v with shadowVolt := x }
  | .current => { v with shadowCurr := x }

/-- The two readings of "the live setpoint" that the shadow takes after a confirmed write (R155, N24): 93 row 11 lets a
write take either. -/
inductive Reading where
  /-- The value written. -/
  | written
  /-- The setpoint when the confirmation succeeds (log 12). -/
  | live
deriving DecidableEq, Repr

/-- One input of a run under the contract, with the reading the host takes if the input confirms a write. -/
structure Turn where
  input   : Input
  reading : Reading
deriving DecidableEq, Repr

/-- A read transaction after one command: it goes on, or is over with the verdict of the parse. -/
inductive ReadMove where
  | going (stage : ReadStage)
  | done (ok : Bool)
deriving DecidableEq, Repr

/-- The read request of a transaction: two registers from the voltage setpoint, or the CC register. -/
def isReadRequest (dual : Bool) (i : Instr) : Bool :=
  i == .frmrd systemSlave (if dual then deviceReg .voltage else deviceRegCc) (if dual then 2#16 else 1#16)

/-- One command while the answer is received: a byte the buffer has room for, or the transaction's parse. -/
def receiveMove (dual : Bool) (s : State) (i : Instr) : Option ReadMove :=
  match i with
  | .rxpush _ => if rxHasRoom s then some (.going .receive) else none
  | .parse2 => if dual then some (.done (dualOk s)) else none
  | .parse1 => if dual then none else some (.done (singleOk s))
  | _ => none

/-- One command of a read transaction (R151); `dual` is the dual read, otherwise the CC read. -/
def readMove (dual : Bool) (stage : ReadStage) (s : State) (i : Instr) : Option ReadMove :=
  match stage with
  | .clear => if i = .rxclr then some (.going .request) else none
  | .request => if isReadRequest dual i then some (.going .receive) else none
  | .receive => receiveMove dual s i

/-- The phase after the synchronisation of a channel (R155, R156). -/
def afterSync : Chan → Phase
  | .voltage => .sync .current
  | .current => .poll .clear

/-- The QREAD that starts the synchronisation of `c`: a write follows when the setpoint differs from the shadow
and the channel is quiet (R155). -/
def syncMove (v : HostView) (s : State) (c : Chan) : HostView :=
  let r := s.snapshot c
  if r.sp ≠ v.shadow c ∧ r.quiet = true then { v with phase := .write c r.sp 0 }
  else { v with phase := afterSync c }

/-- A command no duty speaks of (NOP and the CRC generator): the host may issue it outside its startup, before
which nothing else stands (R154; log 12). -/
def dutyFree : Instr → Bool
  | .nop => true
  | .crcinit => true
  | .crcbyte _ => true
  | _ => false

/-- One command inside a read transaction: the host as `again` says while it goes on, as `finish` says at its end. -/
def readTransaction (dual : Bool) (stage : ReadStage) (s : State) (i : Instr) (again : ReadStage → HostView)
    (finish : Bool → HostView) : Option HostView :=
  match readMove dual stage s i with
  | some (.going st) => some (again st)
  | some (.done ok) => some (finish ok)
  | none => none

/-- The startup read, repeated until it succeeds (R154). -/
def startupMove (v : HostView) (stage : ReadStage) (s : State) (i : Instr) : Option HostView :=
  readTransaction true stage s i (fun st => { v with phase := .startup st })
    (fun ok => { v with phase := if ok then .seed .voltage else .startup .clear })

/-- The value of the dual read that seeds a channel (R154). -/
def readResult (s : State) : Chan → Word
  | .voltage => s.resV
  | .current => s.resI

/-- The phase after the seeding of a channel (R154). -/
def afterSeed : Chan → Phase
  | .voltage => .seed .current
  | .current => .sync .voltage

/-- QSEED of a channel with the value read, which becomes its shadow (R154). -/
def seedMove (v : HostView) (c : Chan) (s : State) (i : Instr) : Option HostView :=
  match i with
  | .qseed d x => if d = c ∧ x = readResult s c then some { v.setShadow c x with phase := afterSeed c } else none
  | _ => none

/-- The write request of a synchronisation, of the value its QREAD latched (R152, R155), once it is held no more. -/
def writeMove (v : HostView) (c : Chan) (x : Word) (hold : Nat) (i : Instr) : Option HostView :=
  match i with
  | .frmwr slave reg y =>
    if slave = systemSlave ∧ reg = deviceReg c ∧ y = x ∧ hold = 0 then some { v with phase := .confirm c x .clear }
    else none
  | _ => none

/-- The value the shadow of `c` takes after a confirmed write of `x` (R155). -/
def Reading.value (r : Reading) (s : State) (c : Chan) (x : Word) : Word :=
  match r with
  | .written => x
  | .live => (s.chan c).sp

/-- The read that confirms a write: the shadow is set only when it succeeds, in either reading (R155, 93 row 11). -/
def confirmMove (r : Reading) (v : HostView) (c : Chan) (x : Word) (stage : ReadStage) (s : State) (i : Instr) :
    Option HostView :=
  readTransaction true stage s i (fun st => { v with phase := .confirm c x st })
    (fun ok => { (if ok then v.setShadow c (r.value s c x) else v) with phase := afterSync c })

/-- The CC read (R156). -/
def pollMove (v : HostView) (stage : ReadStage) (s : State) (i : Instr) : Option HostView :=
  readTransaction false stage s i (fun st => { v with phase := .poll st }) (fun _ => { v with phase := .passEnd })

/-- A button's toggle before the end of a pass, each channel at most once in the pass (R156); any other command as
`other` says. -/
def buttonOr (v : HostView) (s : State) (i : Instr) (other : Option HostView) : Option HostView :=
  match i with
  | .qmult c m =>
    if m = !(s.chan c).mul ∧ !v.toggled.contains c then some { v with toggled := c :: v.toggled } else none
  | _ => other

/-- A button's toggle after the CC read: the channel's toggle of this pass if that is still to come, otherwise its
toggle of the next pass, which it begins (R156). -/
def buttonAtEnd (v : HostView) (c : Chan) : HostView :=
  if v.toggled.contains c then { v with phase := .sync .voltage, toggled := [c] }
  else { v with toggled := c :: v.toggled }

/-- The end of a pass: a button's toggle, or the next pass from its first QREAD (R155, R156). -/
def passEndMove (v : HostView) (s : State) (i : Instr) : Option HostView :=
  match i with
  | .qmult c m => if m = !(s.chan c).mul then some (buttonAtEnd v c) else none
  | .qread c => if c = .voltage then some (syncMove { v with toggled := [] } s c) else none
  | _ => none

/-- The start of a channel's synchronisation. -/
def syncStart (v : HostView) (c : Chan) (s : State) (i : Instr) : Option HostView :=
  match i with
  | .qread d => if d = c then some (syncMove v s c) else none
  | _ => none

/-- The host's next phase if the contract lets it issue `i` when the block is in state `s`, with the reading it takes
if `i` confirms a write. R156 fixes no place of the buttons in a pass, so a toggle may come before, between or after
the pass's two synchronisations and its CC read (log 12). -/
def hostMove (r : Reading) (v : HostView) (s : State) (i : Instr) : Option HostView :=
  match v.phase with
  | .startup stage => startupMove v stage s i
  | .seed c => if dutyFree i then some v else seedMove v c s i
  | .sync c => if dutyFree i then some v else buttonOr v s i (syncStart v c s i)
  | .write c x hold => if dutyFree i then some v else writeMove v c x hold i
  | .confirm c x stage => if dutyFree i then some v else confirmMove r v c x stage s i
  | .poll .clear => if dutyFree i then some v else buttonOr v s i (pollMove v .clear s i)
  | .poll stage => if dutyFree i then some v else pollMove v stage s i
  | .passEnd => if dutyFree i then some v else passEndMove v s i

/-- Whether an instruction is QTICK, the tick agent's one command (R150). -/
def isQtick : Instr → Bool
  | .qtick _ _ => true
  | _ => false

/-- Whether a QTICK with these patterns gives channel `c` an event (40_qdec.md R85). -/
def State.hasEvent (s : State) (c : Chan) (p0 p1 : Pattern) : Bool :=
  evtFlag (lookup s.cfg.qtable (s.chan c).qs (patternOf p0 p1 c)) != 0b00#2

/-- The host at a QTICK: a write that waits to be issued is held until 400 ticks after an event of its channel, so that
no write comes before T+400 (R155). DESIGN CHOICE: such a write is held, and not dropped (log 19). -/
def holdMove (v : HostView) (s : State) (p0 p1 : Pattern) : HostView :=
  match v.phase with
  | .write c x hold => { v with phase := .write c x (if s.hasEvent c p0 p1 then quietTicks else hold - 1) }
  | _ => v

/-- The tick agent's one command (R150), and the host after it. -/
def tickMove (v : HostView) (s : State) (i : Instr) : Option HostView :=
  match i with
  | .qtick p0 p1 => some (holdMove v s p0 p1)
  | _ => none

/-- The host at a new level of the reset pin: it starts again when a reset begins or ends (R154), and goes on where a
released pin is driven released, which is no reset (R160; log 12). -/
def resetMove (v : HostView) (s : State) (level : Bool) : HostView := if level || s.rst then HostView.start else v

/-- Whether the contract lets this input come next, and the host after it. No agent issues a command while rst is
asserted, an illegal word, or a whole frame. -/
def contractMove (r : Reading) (v : HostView) (s : State) (inp : Input) : Option HostView :=
  match inp with
  | .rst level => some (resetMove v s level)
  | .offer _ (.frame _) => none
  | .offer agent (.command w) =>
    if s.rst then none
    else
      match agent, decodeCommand w with
      | .tickAgent, .ok i => tickMove v s i
      | .host, .ok i => if isQtick i then none else hostMove r v s i
      | _, .error _ => none

/-- Run the block and the monitor over the turns of a run: the host and the block at the end, or none where the
contract is broken. -/
def contractRun : List Turn → HostView → State → Option (HostView × State)
  | [], v, s => some (v, s)
  | turn :: rest, v, s =>
    match contractMove turn.reading v s turn.input, s.takeInput turn.input with
    | some v', .next s' => contractRun rest v' s'
    | _, _ => none

end Sys2Proof.Machine
end

