-- ==== Sys2Proof/Machine/Ports.lean ====
section
/-!
DEFINITION. What the host sees: one output port per register of 10_state.md's summary table, and the pin cc_led
(10_state.md R11, 20_memory.md R47, 60_exceptions.md R149). Reading is a function of the state, so it changes
nothing and is never torn.
-/

namespace Sys2Proof.Machine

/-- The output ports, and the output pin `cc_led`. `qtable` is the constant register of the summary table
(log 15). -/
inductive Port where
  | qs (c : Chan)
  | evt (c : Chan)
  | sp (c : Chan)
  | ref (c : Chan)
  | mul (c : Chan)
  | tick
  | rdCh
  | rdSp
  | rdRef
  | rdTick
  | rdQuiet
  | crc
  | tx (i : Fin 8)
  | txValid
  | rx (i : Fin 15)
  | rxCnt
  | rxOvf
  | resV
  | resI
  | resCc
  | parseOk
  | cmdErr
  | qtable (s : BitVec 4) (p : Pattern)
  | ccLed
deriving DecidableEq, Repr

/-- The width of a port in bits (10_state.md section 1). -/
def Port.width (cfg : Config) : Port → Nat
  | .qs _ => 4
  | .evt _ => 2
  | .sp _ => 16
  | .ref _ => cfg.tickW
  | .mul _ => 1
  | .tick => cfg.tickW
  | .rdCh => 1
  | .rdSp => 16
  | .rdRef => cfg.tickW
  | .rdTick => cfg.tickW
  | .rdQuiet => 1
  | .crc => 16
  | .tx _ => 8
  | .txValid => 1
  | .rx _ => 8
  | .rxCnt => 4
  | .rxOvf => 1
  | .resV => 16
  | .resI => 16
  | .resCc => 1
  | .parseOk => 1
  | .cmdErr => 1
  | .qtable _ _ => 6
  | .ccLed => 1

/-- The value the host reads at a port (R11); `cc_led` is `res_cc` (R149). -/
def State.readPort (s : State) : Port → Nat
  | .qs c => (s.chan c).qs.toNat
  | .evt c => (s.chan c).evt.toNat
  | .sp c => (s.chan c).sp.toNat
  | .ref c => (s.chan c).ref
  | .mul c => (s.chan c).mul.toNat
  | .tick => s.tick
  | .rdCh => (chanBit s.rd.ch).toNat
  | .rdSp => s.rd.sp.toNat
  | .rdRef => s.rd.ref
  | .rdTick => s.rd.tick
  | .rdQuiet => s.rd.quiet.toNat
  | .crc => s.crc.toNat
  | .tx i => s.tx[i].toNat
  | .txValid => s.txValid.toNat
  | .rx i => s.rx[i].toNat
  | .rxCnt => s.rxCnt.toNat
  | .rxOvf => s.rxOvf.toNat
  | .resV => s.resV.toNat
  | .resI => s.resI.toNat
  | .resCc => s.resCc.toNat
  | .parseOk => s.parseOk.toNat
  | .cmdErr => s.cmdErr.toNat
  | .qtable q p => (lookup s.cfg.qtable q p).toNat
  | .ccLed => s.resCc.toNat

end Sys2Proof.Machine
end

