-- ==== Sys2Proof/Safety.lean ====
section
/-!
DEFINITION. The terms claims use: the invariant of the block, the states a run can reach, sequences of
instructions, the parts of the state the decoder and the framer own, and safe runs.
-/

namespace Sys2Proof.Machine

/-- A channel within its bounds: sp at most MAX and evt not 0b11 (40_qdec.md R93), ref within TICK_W bits (R17). -/
def Channel.inv (cfg : Config) (ch : Channel) : Bool :=
  decide (ch.sp.toNat ≤ maxSp) && ch.evt != 0b11#2 && decide (ch.ref < 2 ^ cfg.tickW)

/-- The read-out latch holds one snapshot: its flag is that of its own tick and reference (R19, R90). -/
def ReadOut.inv (cfg : Config) (rd : ReadOut) : Bool :=
  decide (rd.sp.toNat ≤ maxSp) && decide (rd.ref < 2 ^ cfg.tickW) && decide (rd.tick < 2 ^ cfg.tickW)
    && rd.quiet == quietFlag cfg rd.tick rd.ref

/-- `rx[i]` holds 0x00 for `i >= rx_cnt` (10_state.md R22). -/
def rxTailZero (s : State) : Bool := (s.rx.toList.drop s.rxCnt.toNat).all (· == 0x00#8)

/-- `tx` is all zero until a frame is built, and then holds a request whose CRC is right (R21, R103). -/
def txInv (s : State) : Bool :=
  if s.txValid then
    (s.tx[1] == funcRead || s.tx[1] == funcWrite) && crcMatches (s.tx.toList.take 6) s.tx[6] s.tx[7]
  else s.tx.toList.all (· == 0x00#8)

/-- The invariant of the block. -/
def State.inv (s : State) : Bool :=
  tableOk s.cfg.qtable && s.volt.inv s.cfg && s.curr.inv s.cfg && decide (s.tick < 2 ^ s.cfg.tickW)
    && s.rd.inv s.cfg && rxTailZero s && txInv s

/-- The states a run reaches: from reset with any table that meets R83, any other parameters and any inputs
waiting, by steps and by further inputs arriving (70 R169). -/
inductive Reachable : State → Prop where
  | reset (cfg : Config) (inputs : List Input) (ok : tableOk cfg.qtable = true) :
      Reachable (State.resetWith cfg inputs)
  | arrive (s : State) (more : List Input) (h : Reachable s) : Reachable (s.setInputs (s.inputs ++ more))
  | step (s t : State) (h : Reachable s) (e : Machine.step s = .next t) : Reachable t

/-- The instructions of a list, executed in order. -/
def execAll : List Instr → State → Host.Outcome State Fault Refusal
  | [], s => .next s
  | i :: is, s =>
    match exec i s with
    | .next t => execAll is t
    | .fault r => .fault r
    | .refused r => .refused r

/-- An instruction offered at the command port by an agent. -/
def offerOf (agent : Agent) (i : Instr) : Input := .offer agent (encode i)

/-- The state of the quadrature decoder (R13 to R19). -/
structure DecoderPart where
  volt : Channel
  curr : Channel
  tick : Nat
  rd   : ReadOut
deriving DecidableEq, Repr

/-- The state of the CRC generator and the framer (R20 to R24). -/
structure FramerPart where
  crc     : Word
  tx      : Vector Byte 8
  txValid : Bool
  rx      : Vector Byte 15
  rxCnt   : BitVec 4
  rxOvf   : Bool
  resV    : Word
  resI    : Word
  resCc   : Bool
  parseOk : Bool
deriving DecidableEq, Repr

/-- What belongs to neither: the parameters, `cmd_err`, the reset pin and the waiting inputs. -/
structure RestPart where
  cfg    : Config
  cmdErr : Bool
  rst    : Bool
  inputs : List Input
deriving DecidableEq, Repr

/-- The decoder's registers. -/
def State.decoderPart (s : State) : DecoderPart := ⟨s.volt, s.curr, s.tick, s.rd⟩

/-- The CRC generator's and the framer's registers. -/
def State.framerPart (s : State) : FramerPart :=
  ⟨s.crc, s.tx, s.txValid, s.rx, s.rxCnt, s.rxOvf, s.resV, s.resI, s.resCc, s.parseOk⟩

/-- Everything else. -/
def State.restPart (s : State) : RestPart := ⟨s.cfg, s.cmdErr, s.rst, s.inputs⟩

/-- Whether an instruction is a decoder command (NOP writes nothing of either part). -/
def isDecoder : Instr → Bool
  | .nop => true
  | .qtick _ _ => true
  | .qseed _ _ => true
  | .qmult _ _ => true
  | .qread _ => true
  | _ => false

/-- The instructions that depend on how often they are issued (20_memory.md R48). -/
def repeatMatters : Instr → Bool
  | .qtick _ _ => true
  | .crcbyte _ => true
  | .rxpush _ => true
  | _ => false

/-- Whether a received frame is valid: its last two bytes, low byte first, are the CRC of the rest (41_crc.md R105). -/
def frameValid (f : List Byte) : Bool :=
  match f.reverse with
  | hi :: lo :: rest => crcMatches rest.reverse lo hi
  | _ => false

/-- The QTICK that gives channel `c` the pattern `p` and the other channel the pattern `q`. -/
def tickOn (c : Chan) (p q : Pattern) : Instr :=
  match c with
  | .voltage => .qtick p q
  | .current => .qtick q p

/-- QTICKs giving channel `c` the patterns `ps` in turn, and the other channel those of `qs` (0b11 when `qs` ends). -/
def ticksOn (c : Chan) : List Pattern → List Pattern → List Instr
  | [], _ => []
  | p :: ps, [] => tickOn c p 0b11#2 :: ticksOn c ps []
  | p :: ps, q :: qs => tickOn c p q :: ticksOn c ps qs

/-- The direction latch of channel `c` after each instruction of a list, in order. -/
def evtTrace (c : Chan) : List Instr → State → List (BitVec 2)
  | [], _ => []
  | i :: is, s =>
    match exec i s with
    | .next t => (t.chan c).evt :: evtTrace c is t
    | _ => []

/-- The used states of the default table with the pattern each rests at (40_qdec.md R82). -/
def restPatterns : List (BitVec 4 × Pattern) :=
  [(0x0#4, 0b11#2), (0x1#4, 0b10#2), (0x2#4, 0b01#2), (0x3#4, 0b00#2), (0x4#4, 0b10#2), (0x5#4, 0b01#2),
   (0x6#4, 0b00#2)]

/-- Whether the next input to be taken releases an asserted reset pin. -/
def releasesReset (s : State) : Bool :=
  s.rst && match s.inputs with
    | .rst false :: _ => true
    | _ => false

/-- Whether an instruction writes `parse_ok`. -/
def isParse : Instr → Bool
  | .parse2 => true
  | .parse1 => true
  | .mbRead2Resp _ _ _ _ _ _ => true
  | .mbRead1Resp _ _ _ _ _ => true
  | _ => false

/-- Whether a turn offers a QTICK. -/
def isTickTurn (turn : Turn) : Bool :=
  match turn.input with
  | .offer _ p => (decode p).toOption.any isQtick
  | .rst _ => false

/-- A safe run of the whole system: from reset the two agents keep their contract for all of the turns. -/
def SafeRun (cfg : Config) (turns : List Turn) : Prop :=
  (contractRun turns HostView.start (State.resetWith cfg [])).isSome = true

end Sys2Proof.Machine
end

