-- ==== Sys2Proof/Certificates/Slice0/Obligations.lean ====
section
/-!
DEFINITION. The statements for the provers. Each docstring names the rule of spec/ it formalises. `restPart` is
the parameters, `cmd_err`, the reset pin and the waiting inputs; `decoderPart` and `framerPart` are the registers
of the decoder and of the CRC generator with the framer (Safety.lean). The block has no memory beside its two
buffers, so "every byte" is every byte of `tx` and of `rx`.
-/

open Sys2Proof Sys2Proof.Machine

/-! ### Encoding -/

/-- 30_encoding.md R74: the sample words, through the assembler, and the instruction each decodes to; the two
illegal words of R74 decode to nothing. -/
def Obligations.SampleWordsDecode : Prop :=
  assembleLine "QTICK 1, 3" = some [.command 0x010D_0000_0000#48] ∧
  decode (.command 0x010D_0000_0000#48) = .ok (.qtick 1#2 3#2) ∧
  assembleLine "QSEED 0, 1200" = some [.command 0x0200_0000_04B0#48] ∧
  decode (.command 0x0200_0000_04B0#48) = .ok (.qseed .voltage 1200#16) ∧
  assembleLine "QMULT 0, x10" = some [.command 0x0300_0000_0001#48] ∧
  decode (.command 0x0300_0000_0001#48) = .ok (.qmult .voltage true) ∧
  assembleLine "QREAD 1" = some [.command 0x0401_0000_0000#48] ∧
  decode (.command 0x0401_0000_0000#48) = .ok (.qread .current) ∧
  assembleLine "CRCBYTE 0xC4" = some [.command 0x11C4_0000_0000#48] ∧
  decode (.command 0x11C4_0000_0000#48) = .ok (.crcbyte 0xC4#8) ∧
  assembleLine "REQ_DUAL" = some [.command 0x2001_0000_0002#48] ∧
  decode (.command 0x2001_0000_0002#48) = .ok (.frmrd 0x01#8 0x0000#16 2#16) ∧
  assembleLine "REQ_WRV 1250" = some [.command 0x2101_0000_04E2#48] ∧
  decode (.command 0x2101_0000_04E2#48) = .ok (.frmwr 0x01#8 0x0000#16 1250#16) ∧
  assembleLine "RXPUSH 0x0B" = some [.command 0x290B_0000_0000#48] ∧
  decode (.command 0x290B_0000_0000#48) = .ok (.rxpush 0x0B#8) ∧
  decode (.command 0x0110_0000_0000#48) = .error .reservedNotZero ∧
  decode (.command 0x0500_0000_0000#48) = .error .unassignedOp

/-- R60, R61, R67 to R70: every instruction's encoding, command word or frame bytes, decodes to it. -/
def Obligations.DecodeOfEncode : Prop :=
  ∀ i : Instr, decode (encode i) = .ok i

/-- R60, R61, R66 to R70: whatever decodes has exactly one encoding, the one it was decoded from; no bit of a
word or frame is ignored. -/
def Obligations.EncodeOfDecode : Prop :=
  ∀ (p : Packet) (i : Instr), decode p = .ok i → encode i = p

/-- R62: a word decodes exactly when it selects a row of the match and mask table, the row it selects is that of
the instruction, and no word selects two rows. -/
def Obligations.DecodeFollowsMatchAndMask : Prop :=
  (∀ w : CmdWord,
    ((∃ i, decode (.command w) = .ok i) ↔ ∃ r ∈ matchTable, w &&& r.mask = r.pattern) ∧
    ∀ i, decode (.command w) = .ok i →
      ∀ r ∈ matchTable, w &&& r.mask = r.pattern ↔ r.mnemonic = mnemonicOf i) ∧
  ∀ w : CmdWord, ∀ r ∈ matchTable, ∀ q ∈ matchTable,
    w &&& r.mask = r.pattern → w &&& q.mask = q.pattern → r = q

/-- R72: for each command with operands, the word as the arithmetic of its operands, and no word when an operand is
outside its range. -/
def Obligations.AssemblerWordsAndRanges : Prop :=
  (∀ p0 p1, (Asm.qtick p0 p1).words =
    if p0 < 4 ∧ p1 < 4 then some [.command (BitVec.ofNat 48 (0x01 * 2 ^ 40 + (p1 * 4 + p0) * 2 ^ 32))] else none) ∧
  (∀ c v, (Asm.qseed c v).words =
    if c < 2 ∧ v < 65536 then some [.command (BitVec.ofNat 48 (0x02 * 2 ^ 40 + c * 2 ^ 32 + v))] else none) ∧
  (∀ c m, (Asm.qmult c m).words =
    if c < 2 then some [.command (BitVec.ofNat 48 (0x03 * 2 ^ 40 + c * 2 ^ 32 + (if m then 1 else 0)))] else none) ∧
  (∀ c, (Asm.qread c).words =
    if c < 2 then some [.command (BitVec.ofNat 48 (0x04 * 2 ^ 40 + c * 2 ^ 32))] else none) ∧
  (∀ b, (Asm.crcbyte b).words =
    if b < 256 then some [.command (BitVec.ofNat 48 (0x11 * 2 ^ 40 + b * 2 ^ 32))] else none) ∧
  (∀ s r n, (Asm.frmrd s r n).words =
    if s < 256 ∧ r < 65536 ∧ n < 65536 then
      some [.command (BitVec.ofNat 48 (0x20 * 2 ^ 40 + s * 2 ^ 32 + r * 2 ^ 16 + n))] else none) ∧
  (∀ s r v, (Asm.frmwr s r v).words =
    if s < 256 ∧ r < 65536 ∧ v < 65536 then
      some [.command (BitVec.ofNat 48 (0x21 * 2 ^ 40 + s * 2 ^ 32 + r * 2 ^ 16 + v))] else none) ∧
  (∀ b, (Asm.rxpush b).words =
    if b < 256 then some [.command (BitVec.ofNat 48 (0x29 * 2 ^ 40 + b * 2 ^ 32))] else none) ∧
  Asm.nop.words = some [.command 0x0000_0000_0000#48] ∧
  Asm.crcinit.words = some [.command 0x1000_0000_0000#48] ∧
  Asm.rxclr.words = some [.command 0x2800_0000_0000#48] ∧
  Asm.parse2.words = some [.command 0x2A00_0000_0000#48] ∧
  Asm.parse1.words = some [.command 0x2B00_0000_0000#48]

/-- R73: the pseudo-commands expand to the commands the table shows. -/
def Obligations.PseudoCommandsExpand : Prop :=
  Asm.reqDual.expand = (Asm.frmrd 0x01 0x0000 2).expand ∧
  Asm.reqCc.expand = (Asm.frmrd 0x01 0x0008 1).expand ∧
  (∀ v, (Asm.reqWrv v).expand = (Asm.frmwr 0x01 0x0000 v).expand) ∧
  (∀ v, (Asm.reqWri v).expand = (Asm.frmwr 0x01 0x0001 v).expand) ∧
  (∀ bs : List Byte, (Asm.rxframe (bs.map BitVec.toNat)).expand = some (.rxclr :: bs.map .rxpush)) ∧
  (∀ bs : List Byte, (Asm.crcof (bs.map BitVec.toNat)).expand = some (.crcinit :: bs.map .crcbyte))

/-! ### The step and the command port -/

/-- R12, R49, R146: when the oldest input is a packet that decodes to an instruction, rst is released and the table
is allowed, the step is `exec` of that instruction on the state without that input, whichever agent offered it. -/
def Obligations.StepRunsDecodedInstruction : Prop :=
  ∀ (s : State) (agent : Agent) (p : Packet) (rest : List Input) (i : Instr),
    tableOk s.cfg.qtable = true → s.rst = false → s.inputs = .offer agent p :: rest → decode p = .ok i →
      step s = exec i (s.setInputs rest)

/-- R161: with no input the block waits. That a wait is a step to the same state is the model's choice (log 4). -/
def Obligations.StepWaitsForInput : Prop :=
  ∀ s : State, tableOk s.cfg.qtable = true → s.inputs = [] → step s = .next s

/-- R49: a run over commands offered in any order by the two agents is the execution of those commands one at a
time in that order, and leaves the inputs after them waiting. -/
def Obligations.RunExecutesInAcceptedOrder : Prop :=
  ∀ (l : List (Agent × Instr)) (rest : List Input) (s : State),
    tableOk s.cfg.qtable = true → s.rst = false →
    s.inputs = l.map (fun x => offerOf x.1 x.2) ++ rest →
      Host.Core.run core l.length s = execAll (l.map Prod.snd) (s.setInputs rest)

/-- R146: the agent that issued a command makes no difference. -/
def Obligations.IssuingAgentIsIgnored : Prop :=
  ∀ (s : State) (a b : Agent) (p : Packet) (rest : List Input),
    step (s.setInputs (.offer a p :: rest)) = step (s.setInputs (.offer b p :: rest))

/-- R66, R141, R145: a word whose op is none of R61, or with a reserved bit set, in the words of R62 a word that
selects no row, sets `cmd_err` and changes no other register; it is taken from the port. -/
def Obligations.IllegalWordOnlySetsCmdErr : Prop :=
  ∀ (s : State) (agent : Agent) (w : CmdWord) (rest : List Input),
    tableOk s.cfg.qtable = true → s.rst = false → s.inputs = .offer agent (.command w) :: rest →
    (∀ r ∈ matchTable, w &&& r.mask ≠ r.pattern) →
      ∃ t, step s = .next t ∧ t.decoderPart = s.decoderPart ∧ t.framerPart = s.framerPart ∧
        t.restPart = { s.restPart with cmdErr := true, inputs := rest }

/-- R140, R141: no instruction traps. Every instruction, in every state, answers a next state, and none of them
writes `cmd_err`, the parameters, the reset pin or the waiting inputs. -/
def Obligations.EveryInstructionCompletes : Prop :=
  ∀ (i : Instr) (s : State), ∃ t, exec i s = .next t ∧ t.restPart = s.restPart

/-- R140: with an allowed table the step answers a next state, unless the oldest input is a byte sequence that is
no frame of the opcode table (a refusal of the model's own, log 7). -/
def Obligations.StepCompletesOnEveryCommand : Prop :=
  ∀ s : State, tableOk s.cfg.qtable = true →
    (∀ agent bytes rest, s.inputs = .offer agent (.frame bytes) :: rest → s.rst = false →
      ∃ i, decode (.frame bytes) = .ok i) →
    ∃ t, step s = .next t

/-- R26, R141, R161: `cmd_err` and `tx_valid`, once set, are cleared by no step but one that releases an asserted reset.
That the assertion of rst leaves both as they were until the release is the model's choice (log 5). -/
def Obligations.OnlyResetClearsStickyFlags : Prop :=
  ∀ s t : State, step s = .next t → releasesReset s = false →
    (s.cmdErr = true → t.cmdErr = true) ∧ (s.txValid = true → t.txValid = true)

/-- R2, R28, R160: no step changes QTABLE, TICK_W or CC_DECODE, reset included. -/
def Obligations.ParametersNeverChange : Prop :=
  ∀ s t : State, step s = .next t → t.cfg = s.cfg

/-! ### Reset and the invariant -/

/-- R160: while rst is asserted an offered packet changes no register; the release of rst gives the values of
`Reset()`, QTABLE is not affected. That a packet offered meanwhile is dropped is the model's choice (log 5). -/
def Obligations.ResetReleaseGivesResetValues : Prop :=
  ∀ (s : State) (rest : List Input), tableOk s.cfg.qtable = true → s.rst = true →
    (∀ agent p, s.inputs = .offer agent p :: rest → step s = .next (s.setInputs rest)) ∧
    (s.inputs = .rst false :: rest → ∃ t, step s = .next t ∧
      (∀ c, (t.chan c).qs = 0x0#4 ∧ (t.chan c).evt = 0b00#2 ∧ (t.chan c).sp = 0#16 ∧ (t.chan c).ref = 0 ∧
        (t.chan c).mul = false) ∧
      t.tick = 0 ∧
      t.rd.ch = .voltage ∧ t.rd.sp = 0#16 ∧ t.rd.ref = 0 ∧ t.rd.tick = 0 ∧ t.rd.quiet = false ∧
      t.crc = 0xFFFF#16 ∧ (∀ i : Fin 8, t.tx[i] = 0x00#8) ∧ t.txValid = false ∧
      (∀ i : Fin 15, t.rx[i] = 0x00#8) ∧ t.rxCnt = 0#4 ∧ t.rxOvf = false ∧
      t.resV = 0#16 ∧ t.resI = 0#16 ∧ t.resCc = false ∧ t.parseOk = false ∧ t.cmdErr = false ∧
      t.readPort .ccLed = 0 ∧ t.cfg = s.cfg ∧ t.rst = false ∧ t.inputs = rest)

/-- The invariant of the block (Safety.lean `State.inv`) holds after reset, for every allowed parameter value. -/
def Obligations.ResetMeetsBlockInvariant : Prop :=
  State.reset.inv = true ∧
  ∀ (cfg : Config) (inputs : List Input), tableOk cfg.qtable = true → (State.resetWith cfg inputs).inv = true

/-- The invariant of the block is kept by every step from every state that meets it: an allowed table (R83), sp at
most MAX and evt not 0b11 (R93), tick and references within TICK_W bits (R17, R18), a read-out latch that is one
snapshot (R19, R90), zeros beyond rx_cnt (R22), and tx all zero or a request with a right CRC (R21). -/
def Obligations.StepKeepsBlockInvariant : Prop :=
  ∀ s t : State, s.inv = true → step s = .next t → t.inv = true

/-- R93. -/
def Obligations.ReachableSetpointsInRange : Prop :=
  ∀ s : State, Reachable s → ∀ c : Chan, (s.chan c).sp.toNat ≤ 5000 ∧ (s.chan c).evt ≠ 0b11#2

/-- 10_state.md section 1, "written by": an instruction changes a register only if it is one of the register's
writers. The wire rows write what the commands they stand for write (log 7, log 8). -/
def Obligations.RegistersChangeOnlyByTheirWriters : Prop :=
  ∀ (i : Instr) (s t : State), exec i s = .next t →
    (∀ c, (t.chan c).qs ≠ (s.chan c).qs ∨ (t.chan c).evt ≠ (s.chan c).evt ∨ (t.chan c).ref ≠ (s.chan c).ref →
      mnemonicOf i = "QTICK") ∧
    (∀ c, (t.chan c).sp ≠ (s.chan c).sp → mnemonicOf i ∈ ["QTICK", "QSEED"]) ∧
    (∀ c, (t.chan c).mul ≠ (s.chan c).mul → mnemonicOf i = "QMULT") ∧
    (t.tick ≠ s.tick → mnemonicOf i = "QTICK") ∧
    (t.rd ≠ s.rd → mnemonicOf i = "QREAD") ∧
    (t.crc ≠ s.crc → mnemonicOf i ∈ ["CRCINIT", "CRCBYTE"]) ∧
    (t.tx ≠ s.tx ∨ t.txValid ≠ s.txValid → mnemonicOf i ∈ ["FRMRD", "FRMWR", "MB_READ_REQ", "MB_WRITE_REQ"]) ∧
    (t.rx ≠ s.rx ∨ t.rxCnt ≠ s.rxCnt ∨ t.rxOvf ≠ s.rxOvf →
      mnemonicOf i ∈ ["RXCLR", "RXPUSH", "MB_READ2_RESP", "MB_READ1_RESP"]) ∧
    (t.resV ≠ s.resV ∨ t.resI ≠ s.resI → mnemonicOf i ∈ ["PARSE2", "MB_READ2_RESP"]) ∧
    (t.resCc ≠ s.resCc → mnemonicOf i ∈ ["PARSE1", "MB_READ1_RESP"]) ∧
    (t.parseOk ≠ s.parseOk → mnemonicOf i ∈ ["PARSE2", "PARSE1", "MB_READ2_RESP", "MB_READ1_RESP"])

/-- R48: every command but QTICK, CRCBYTE and RXPUSH is idempotent. The four wire rows, which R48 does not speak of, are
included by what the model lets them mean (log 7, log 8). -/
def Obligations.OtherCommandsAreIdempotent : Prop :=
  ∀ (i : Instr) (s t : State), repeatMatters i = false → exec i s = .next t → exec i t = .next t

/-- R94, R49: over any sequence of instructions, the decoder's registers at the end are those after the decoder
commands of the sequence alone, and the CRC generator's and framer's those after the other instructions alone:
no interleaving of the two agents' independent commands can be told apart. The four wire rows count among the other
instructions by what the model lets them mean (log 7, log 8). -/
def Obligations.DecoderAndFramerAreIndependent : Prop :=
  ∀ (is : List Instr) (s : State), ∃ t d f,
    execAll is s = .next t ∧
    execAll (is.filter (fun i => isDecoder i)) s = .next d ∧
    execAll (is.filter (fun i => !isDecoder i)) s = .next f ∧
    t.decoderPart = d.decoderPart ∧ t.framerPart = f.framerPart ∧ t.restPart = s.restPart

/-- R11, R47: in every state that meets the block invariant, what the host reads at a port fits the port's width. -/
def Obligations.PortValuesFitTheirWidths : Prop :=
  ∀ (s : State) (p : Port), s.inv = true → s.readPort p < 2 ^ p.width s.cfg

/-- R149: the pin cc_led reads as res_cc in every state. -/
def Obligations.CcLedFollowsResCc : Prop :=
  ∀ s : State, s.readPort .ccLed = s.readPort .resCc ∧ (s.readPort .ccLed = 1 ↔ s.resCc = true)

/-! ### The quadrature decoder -/

/-- R84. -/
def Obligations.NopChangesNothing : Prop :=
  encode .nop = .command 0x0000_0000_0000#48 ∧
  (∀ s : State, exec .nop s = .next s) ∧
  ∀ w : CmdWord, w.extractLsb' 40 8 = 0x00#8 → w ≠ 0#48 → decode (.command w) = .error .reservedNotZero

/-- R83: `tableOk` is I1 and I3 (I2 is the shape of the table); the default table meets it and P1, P2, P3; a table
that does not meet it is refused. -/
def Obligations.TransitionTableInvariants : Prop :=
  (∀ t : QTable, tableOk t = true ↔
    ∀ (q : BitVec 4) (p : Pattern), (lookup t q p).extractLsb' 4 2 ≠ 0b11#2 ∧ (lookup t q p).extractLsb' 6 2 = 0#2) ∧
  tableOk defaultTable = true ∧
  (∀ x ∈ restPatterns, lookup defaultTable x.1 x.2 = x.1.setWidth 8) ∧
  (∀ x ∈ restPatterns, lookup defaultTable x.1 (~~~ x.2) = 0x00#8) ∧
  (∀ (q : BitVec 4) (p : Pattern), (lookup defaultTable q p).extractLsb' 4 2 ≠ 0#2 →
    (lookup defaultTable q p).extractLsb' 0 4 = 0#4) ∧
  ∀ s : State, tableOk s.cfg.qtable = false → step s = .refused .badTransitionTable

/-- R85, R86: QTICK with an allowed table. Each channel's next state and latch come from one lookup; an event moves
the setpoint by the step on exact integers, clamped, and stamps the reference with the new tick; no event leaves
both; an unused state returns to START under the default table. The frame: `mul`, the read-out latch, the framer and the rest are unchanged. -/
def Obligations.QtickResult : Prop :=
  ∀ (p0 p1 : Pattern) (s : State), tableOk s.cfg.qtable = true →
    encode (.qtick p0 p1) = .command (0x01#8 ++ (0#4 ++ p1 ++ p0) ++ 0#16 ++ 0#16) ∧
    ∃ t, exec (.qtick p0 p1) s = .next t ∧
      t.tick = (s.tick + 1) % 2 ^ s.cfg.tickW ∧
      (∀ c : Chan,
        let e := lookup s.cfg.qtable (s.chan c).qs (if c = .voltage then p0 else p1)
        let stp : Int := if (s.chan c).mul then 10 else 1
        (t.chan c).qs = e.extractLsb' 0 4 ∧ (t.chan c).evt = e.extractLsb' 4 2 ∧ (t.chan c).mul = (s.chan c).mul ∧
        (e.getLsbD 4 = true →
          ((t.chan c).sp.toNat : Int) = min 5000 (max 0 ((s.chan c).sp.toNat + stp)) ∧ (t.chan c).ref = t.tick) ∧
        (e.getLsbD 5 = true →
          ((t.chan c).sp.toNat : Int) = min 5000 (max 0 ((s.chan c).sp.toNat - stp)) ∧ (t.chan c).ref = t.tick) ∧
        (e.getLsbD 4 = false → e.getLsbD 5 = false →
          (t.chan c).sp = (s.chan c).sp ∧ (t.chan c).ref = (s.chan c).ref) ∧
        (s.cfg.qtable = defaultTable → 7 ≤ (s.chan c).qs.toNat → (t.chan c).qs = 0x0#4)) ∧
      t.rd = s.rd ∧ t.framerPart = s.framerPart ∧ t.restPart = s.restPart

/-- R87: the six corner rows (sp before, mul, clockwise or not, sp after), each with the reference written, for
either channel and any allowed table whose entry carries that event; and no event takes the setpoint above MAX. -/
def Obligations.ApplyEventCornerCases : Prop :=
  (∀ row ∈ [(4995#16, true, true, 5000#16), (5000#16, false, true, 5000#16), (3#16, true, false, 0#16),
      (0#16, false, false, 0#16), (1200#16, true, true, 1210#16), (1200#16, false, false, 1199#16)],
  ∀ (p0 p1 : Pattern) (s : State) (c : Chan), tableOk s.cfg.qtable = true →
    (s.chan c).sp = row.1 → (s.chan c).mul = row.2.1 →
    (lookup s.cfg.qtable (s.chan c).qs (if c = .voltage then p0 else p1)).extractLsb' 4 2
      = (if row.2.2.1 then 0b01#2 else 0b10#2) →
    ∃ t, exec (.qtick p0 p1) s = .next t ∧ (t.chan c).sp = row.2.2.2 ∧ (t.chan c).ref = t.tick) ∧
  ∀ (p0 p1 : Pattern) (s : State) (c : Chan), tableOk s.cfg.qtable = true →
    (lookup s.cfg.qtable (s.chan c).qs (if c = .voltage then p0 else p1)).extractLsb' 4 2 ≠ 0b00#2 →
    ∃ t, exec (.qtick p0 p1) s = .next t ∧ (t.chan c).sp.toNat ≤ 5000

/-- R18: the tick counter advances by one modulo 2^TICK_W at each QTICK and at no other instruction. -/
def Obligations.TickCountsQticks : Prop :=
  ∀ (is : List Instr) (s : State), s.tick < 2 ^ s.cfg.tickW →
    ∃ t, execAll is s = .next t ∧ t.tick = (s.tick + (is.filter (fun i => isQtick i)).length) % 2 ^ s.cfg.tickW

/-- R88. -/
def Obligations.QseedResult : Prop :=
  ∀ (c : Chan) (v : Word) (s : State),
    encode (.qseed c v) = .command (0x02#8 ++ (0#7 ++ (if c = .voltage then 0#1 else 1#1)) ++ 0#16 ++ v) ∧
    ∃ t, exec (.qseed c v) s = .next t ∧
      (t.chan c).sp.toNat = min v.toNat 5000 ∧
      (t.chan c).qs = (s.chan c).qs ∧ (t.chan c).evt = (s.chan c).evt ∧ (t.chan c).ref = (s.chan c).ref ∧
      (t.chan c).mul = (s.chan c).mul ∧ (∀ d, d ≠ c → t.chan d = s.chan d) ∧
      t.tick = s.tick ∧ t.rd = s.rd ∧ t.framerPart = s.framerPart ∧ t.restPart = s.restPart

/-- R89, R16: QMULT writes the select, and an `l` other than 0 or 1 is illegal. -/
def Obligations.QmultResult : Prop :=
  (∀ (c : Chan) (m : Bool) (s : State),
    encode (.qmult c m) = .command (0x03#8 ++ (0#7 ++ (if c = .voltage then 0#1 else 1#1)) ++ 0#16
      ++ (if m then 1#16 else 0#16)) ∧
    ∃ t, exec (.qmult c m) s = .next t ∧
      (t.chan c).mul = m ∧ stepSize (t.chan c).mul = (if m then 10 else 1) ∧
      (t.chan c).qs = (s.chan c).qs ∧ (t.chan c).evt = (s.chan c).evt ∧ (t.chan c).sp = (s.chan c).sp ∧
      (t.chan c).ref = (s.chan c).ref ∧ (∀ d, d ≠ c → t.chan d = s.chan d) ∧
      t.tick = s.tick ∧ t.rd = s.rd ∧ t.framerPart = s.framerPart ∧ t.restPart = s.restPart) ∧
  ∀ w : CmdWord, w.extractLsb' 40 8 = 0x03#8 → 2 ≤ (w.extractLsb' 0 16).toNat →
    decode (.command w) = .error .reservedNotZero

/-- R90: the five fields of the latch, with the quiet flag on the exact modular difference; the frame. -/
def Obligations.QreadResult : Prop :=
  ∀ (c : Chan) (s : State),
    encode (.qread c) = .command (0x04#8 ++ (0#7 ++ (if c = .voltage then 0#1 else 1#1)) ++ 0#16 ++ 0#16) ∧
    ∃ t, exec (.qread c) s = .next t ∧
      t.rd.ch = c ∧ t.rd.sp = (s.chan c).sp ∧ t.rd.ref = (s.chan c).ref ∧ t.rd.tick = s.tick ∧
      (t.rd.quiet = true ↔ ((s.tick : Int) - ((s.chan c).ref : Int)) % (2 : Int) ^ s.cfg.tickW ≥ 400) ∧
      (∀ d, t.chan d = s.chan d) ∧ t.tick = s.tick ∧ t.framerPart = s.framerPart ∧ t.restPart = s.restPart

/-- R90: after `n` QTICKs without an event on a channel whose reference was the current tick, QREAD of the channel
reports quiet exactly when `n` modulo 2^TICK_W is at least 400: on the 400th, and not again for 400 ticks after a
wrap. -/
def Obligations.QuietFromTheFourHundredthTick : Prop :=
  ∀ (c : Chan) (ps : List (Pattern × Pattern)) (s t : State),
    s.tick < 2 ^ s.cfg.tickW → (s.chan c).ref = s.tick → tableOk s.cfg.qtable = true →
    execAll (ps.map (fun p => .qtick p.1 p.2)) s = .next t →
    (∀ e ∈ evtTrace c (ps.map (fun p => .qtick p.1 p.2)) s, e = 0b00#2) →
      ∃ u, exec (.qread c) t = .next u ∧ (u.rd.quiet = true ↔ 400 ≤ ps.length % 2 ^ s.cfg.tickW)

/-- R91: under the default table, from START, each full cycle gives exactly one event, on its last tick, and ends
in START, whatever the other channel sees. -/
def Obligations.FullCycleGivesOneEvent : Prop :=
  ∀ (c : Chan) (qs : List Pattern) (s : State),
    s.cfg.qtable = defaultTable → (s.chan c).qs = 0x0#4 →
    (∃ t, execAll (ticksOn c [0b11#2, 0b01#2, 0b00#2, 0b10#2, 0b11#2] qs) s = .next t ∧ (t.chan c).qs = 0x0#4 ∧
      evtTrace c (ticksOn c [0b11#2, 0b01#2, 0b00#2, 0b10#2, 0b11#2] qs) s
        = [0b00#2, 0b00#2, 0b00#2, 0b00#2, 0b01#2]) ∧
    (∃ t, execAll (ticksOn c [0b11#2, 0b10#2, 0b00#2, 0b01#2, 0b11#2] qs) s = .next t ∧ (t.chan c).qs = 0x0#4 ∧
      evtTrace c (ticksOn c [0b11#2, 0b10#2, 0b00#2, 0b01#2, 0b11#2] qs) s
        = [0b00#2, 0b00#2, 0b00#2, 0b00#2, 0b10#2])

/-- R92 (b): bouncing any number of times between adjacent positions inside a cycle neither loses nor duplicates
the detent, in either direction. -/
def Obligations.BounceKeepsTheDetent : Prop :=
  ∀ (c : Chan) (n m k : Nat) (qs : List Pattern) (s : State),
    s.cfg.qtable = defaultTable → (s.chan c).qs = 0x0#4 →
    (let ps := (List.replicate n [0b01#2, 0b00#2]).flatten ++ [0b01#2, 0b00#2]
        ++ (List.replicate m [0b10#2, 0b00#2]).flatten ++ List.replicate (k + 1) 0b10#2 ++ [0b11#2]
     evtTrace c (ticksOn c ps qs) s = List.replicate (ps.length - 1) 0b00#2 ++ [0b01#2]) ∧
    (let ps := (List.replicate n [0b10#2, 0b00#2]).flatten ++ [0b10#2, 0b00#2]
        ++ (List.replicate m [0b01#2, 0b00#2]).flatten ++ List.replicate (k + 1) 0b01#2 ++ [0b11#2]
     evtTrace c (ticksOn c ps qs) s = List.replicate (ps.length - 1) 0b00#2 ++ [0b10#2])

/-- R92 (a), (c), (d): under the default table a partial cycle gives no event and ends in START; a repeated rest
pattern changes neither state nor setpoint; an invalid jump resets the channel to START with no event. -/
def Obligations.BounceAndJumpsGiveNoEvent : Prop :=
  ∀ (c : Chan) (s : State), s.cfg.qtable = defaultTable →
    (∀ ps ∈ [[0b11#2, 0b01#2, 0b11#2], [0b11#2, 0b01#2, 0b00#2, 0b01#2, 0b11#2],
        [0b11#2, 0b01#2, 0b00#2, 0b10#2, 0b00#2, 0b01#2, 0b11#2], [0b11#2, 0b10#2, 0b11#2],
        [0b11#2, 0b10#2, 0b00#2, 0b10#2, 0b11#2], [0b11#2, 0b10#2, 0b00#2, 0b01#2, 0b00#2, 0b10#2, 0b11#2]],
      (s.chan c).qs = 0x0#4 → ∀ qs : List Pattern,
        (∀ e ∈ evtTrace c (ticksOn c ps qs) s, e = 0b00#2) ∧
        ∃ t, execAll (ticksOn c ps qs) s = .next t ∧ (t.chan c).qs = 0x0#4 ∧ (t.chan c).sp = (s.chan c).sp) ∧
    (∀ x ∈ restPatterns, (s.chan c).qs = x.1 → ∀ q : Pattern,
      (∃ t, exec (tickOn c x.2 q) s = .next t ∧ (t.chan c).qs = x.1 ∧ (t.chan c).evt = 0b00#2 ∧
        (t.chan c).sp = (s.chan c).sp ∧ (t.chan c).ref = (s.chan c).ref) ∧
      (∃ t, exec (tickOn c (~~~ x.2) q) s = .next t ∧ (t.chan c).qs = 0x0#4 ∧ (t.chan c).evt = 0b00#2 ∧
        (t.chan c).sp = (s.chan c).sp ∧ (t.chan c).ref = (s.chan c).ref))

/-! ### The CRC generator -/

/-- R101, R102: the results of the two commands and their frame; CrcStep on the two vectors of R102. -/
def Obligations.CrcCommandResults : Prop :=
  encode .crcinit = .command 0x1000_0000_0000#48 ∧
  (∀ b, encode (.crcbyte b) = .command (0x11#8 ++ b ++ 0#16 ++ 0#16)) ∧
  (∀ s : State, ∃ t, exec .crcinit s = .next t ∧ t.crc = 0xFFFF#16 ∧ t.decoderPart = s.decoderPart ∧
    t.framerPart = { s.framerPart with crc := 0xFFFF#16 } ∧ t.restPart = s.restPart) ∧
  (∀ (b : Byte) (s : State), ∃ t, exec (.crcbyte b) s = .next t ∧
    t.crc = Nat.repeat (fun c : Word => if c.getLsbD 0 then (c >>> 1) ^^^ 0xA001#16 else c >>> 1) 8
      (s.crc ^^^ b.setWidth 16) ∧
    t.decoderPart = s.decoderPart ∧ t.framerPart = { s.framerPart with crc := t.crc } ∧ t.restPart = s.restPart) ∧
  crcStep 0xFFFF#16 0x00#8 = 0x40BF#16 ∧ crcStep 0xFFFF#16 0x01#8 = 0x807E#16

/-- R102, R100: CRCINIT and then CRCBYTE of each byte leaves `CRC16` of the bytes in `crc`, and nothing else
changed. -/
def Obligations.CrcCommandsComputeCrc16 : Prop :=
  ∀ (bytes : List Byte) (s : State), ∃ t,
    execAll (.crcinit :: bytes.map .crcbyte) s = .next t ∧ t.crc = crc16 bytes ∧
    t.decoderPart = s.decoderPart ∧ t.framerPart = { s.framerPart with crc := crc16 bytes } ∧
    t.restPart = s.restPart

/-- R104: the golden vector. -/
def Obligations.GoldenCrcVector : Prop :=
  crc16 [0x01#8, 0x03#8, 0x00#8, 0x00#8, 0x00#8, 0x02#8] = 0x0BC4#16 ∧
  loByte 0x0BC4#16 = 0xC4#8 ∧ hiByte 0x0BC4#16 = 0x0B#8 ∧
  withCrc [0x01#8, 0x03#8, 0x00#8, 0x00#8, 0x00#8, 0x02#8]
    = [0x01#8, 0x03#8, 0x00#8, 0x00#8, 0x00#8, 0x02#8, 0xC4#8, 0x0B#8]

/-- R106: the residue law, in both directions: running the CRC over a payload and two more bytes gives zero exactly
when those bytes are the payload's CRC, low byte first. -/
def Obligations.CrcResidueIsZero : Prop :=
  ∀ (payload : List Byte) (lo hi : Byte),
    crc16 (payload ++ [lo, hi]) = 0x0000#16 ↔ concat hi lo = crc16 payload

/-- R121: no two frames of one length that differ in exactly one byte are both valid (R105); a single changed bit
is a case of it. -/
def Obligations.OneChangedByteInvalidatesFrame : Prop :=
  ∀ (before after : List Byte) (x y : Byte), x ≠ y →
    frameValid (before ++ x :: after) = true → frameValid (before ++ y :: after) = false

/-! ### The framer -/

/-- R110: the read request, and the frame (nothing but `tx` and `tx_valid`; `crc` is not used). -/
def Obligations.FrmrdResult : Prop :=
  ∀ (slave : Byte) (reg n : Word) (s : State),
    encode (.frmrd slave reg n) = .command (0x20#8 ++ slave ++ reg ++ n) ∧
    ∃ t, exec (.frmrd slave reg n) s = .next t ∧
      (let k := crc16 [slave, 0x03#8, reg.extractLsb' 8 8, reg.extractLsb' 0 8, n.extractLsb' 8 8, n.extractLsb' 0 8]
       t.tx = #v[slave, 0x03#8, reg.extractLsb' 8 8, reg.extractLsb' 0 8, n.extractLsb' 8 8, n.extractLsb' 0 8,
        k.extractLsb' 0 8, k.extractLsb' 8 8]) ∧
      t.txValid = true ∧ t.decoderPart = s.decoderPart ∧
      t.framerPart = { s.framerPart with tx := t.tx, txValid := true } ∧ t.restPart = s.restPart

/-- R111, R112: the write request with the bitmask form of the value's bytes, and the frame. -/
def Obligations.FrmwrResult : Prop :=
  ∀ (slave : Byte) (reg v : Word) (s : State),
    encode (.frmwr slave reg v) = .command (0x21#8 ++ slave ++ reg ++ v) ∧
    ∃ t, exec (.frmwr slave reg v) s = .next t ∧
      (let vh : Byte := ((v >>> 8) &&& 0x00FF#16).setWidth 8
       let vl : Byte := (v &&& 0x00FF#16).setWidth 8
       let k := crc16 [slave, 0x06#8, reg.extractLsb' 8 8, reg.extractLsb' 0 8, vh, vl]
       t.tx = #v[slave, 0x06#8, reg.extractLsb' 8 8, reg.extractLsb' 0 8, vh, vl,
        k.extractLsb' 0 8, k.extractLsb' 8 8]) ∧
      t.txValid = true ∧ t.decoderPart = s.decoderPart ∧
      t.framerPart = { s.framerPart with tx := t.tx, txValid := true } ∧ t.restPart = s.restPart

/-- R67, R68, R103, R105: what FRMRD and FRMWR leave in `tx` is the wire frame of the table's row, and a receiver
that decodes those eight bytes gets the request back. -/
def Obligations.BuiltRequestsAreWireFrames : Prop :=
  (∀ (slave : Byte) (reg n : Word) (s : State), ∃ t, exec (.frmrd slave reg n) s = .next t ∧
    encode (.mbReadReq slave reg n) = .frame t.tx.toList ∧
    decode (.frame t.tx.toList) = .ok (.mbReadReq slave reg n) ∧ frameValid t.tx.toList = true) ∧
  (∀ (slave : Byte) (reg v : Word) (s : State), ∃ t, exec (.frmwr slave reg v) s = .next t ∧
    encode (.mbWriteReq slave reg v) = .frame t.tx.toList ∧
    decode (.frame t.tx.toList) = .ok (.mbWriteReq slave reg v) ∧ frameValid t.tx.toList = true)

/-- R114. -/
def Obligations.RxclrResult : Prop :=
  encode .rxclr = .command 0x2800_0000_0000#48 ∧
  ∀ s : State, ∃ t, exec .rxclr s = .next t ∧ (∀ i : Fin 15, t.rx[i] = 0x00#8) ∧ t.rxCnt = 0#4 ∧ t.rxOvf = false ∧
    t.decoderPart = s.decoderPart ∧
    t.framerPart = { s.framerPart with rx := t.rx, rxCnt := 0#4, rxOvf := false } ∧ t.restPart = s.restPart

/-- R115: with room the byte goes to `rx[rx_cnt]` alone, without room only `rx_ovf` is set. -/
def Obligations.RxpushResult : Prop :=
  (∀ b : Byte, encode (.rxpush b) = .command (0x29#8 ++ b ++ 0#16 ++ 0#16)) ∧
  ∀ (b : Byte) (s : State), ∃ t, exec (.rxpush b) s = .next t ∧
    (s.rxCnt.toNat < 15 →
      (∀ i : Fin 15, t.rx[i] = if i.val = s.rxCnt.toNat then b else s.rx[i]) ∧
      t.rxCnt.toNat = s.rxCnt.toNat + 1 ∧ t.rxOvf = s.rxOvf) ∧
    (s.rxCnt.toNat = 15 → (∀ i : Fin 15, t.rx[i] = s.rx[i]) ∧ t.rxCnt = s.rxCnt ∧ t.rxOvf = true) ∧
    t.decoderPart = s.decoderPart ∧
    t.framerPart = { s.framerPart with rx := t.rx, rxCnt := t.rxCnt, rxOvf := t.rxOvf } ∧ t.restPart = s.restPart

/-- R114, R115, R119: after RXCLR and any number of pushes the buffer holds the first 15 bytes and zeros after
them, `rx_cnt` their number, and `rx_ovf` whether a byte was discarded. -/
def Obligations.PushesFillTheBufferInOrder : Prop :=
  ∀ (bytes : List Byte) (s : State), ∃ t, execAll (.rxclr :: bytes.map .rxpush) s = .next t ∧
    (∀ i : Fin 15, t.rx[i] = bytes.getD i.val 0x00#8) ∧
    t.rxCnt.toNat = min bytes.length 15 ∧ (t.rxOvf = true ↔ 15 < bytes.length) ∧
    t.decoderPart = s.decoderPart ∧ t.restPart = s.restPart

/-- R116: PARSE2, both verdicts, and the frame. -/
def Obligations.Parse2Result : Prop :=
  encode .parse2 = .command 0x2A00_0000_0000#48 ∧
  ∀ s : State, ∃ t, exec .parse2 s = .next t ∧
    (if s.rx[8] ++ s.rx[7] = crc16 [s.rx[0], s.rx[1], s.rx[2], s.rx[3], s.rx[4], s.rx[5], s.rx[6]] then
      t.framerPart = { s.framerPart with
        resV := s.rx[3] ++ s.rx[4], resI := s.rx[5] ++ s.rx[6], parseOk := true }
    else t.framerPart = { s.framerPart with parseOk := false }) ∧
    t.decoderPart = s.decoderPart ∧ t.restPart = s.restPart

/-- R117: PARSE1, both verdicts, the CC decode of the status byte, and the frame. -/
def Obligations.Parse1Result : Prop :=
  encode .parse1 = .command 0x2B00_0000_0000#48 ∧
  (∀ s : State, ∃ t, exec .parse1 s = .next t ∧
    (if s.rx[6] ++ s.rx[5] = crc16 [s.rx[0], s.rx[1], s.rx[2], s.rx[3], s.rx[4]] then
      t.framerPart = { s.framerPart with resCc := ccDecode s.cfg s.rx[4], parseOk := true }
    else t.framerPart = { s.framerPart with parseOk := false }) ∧
    t.readPort .ccLed = t.resCc.toNat ∧ t.decoderPart = s.decoderPart ∧ t.restPart = s.restPart) ∧
  (∀ b, ccDecode Config.default b = (b != 0x00#8))

/-- R2, R117, N9: every value of the parameter maps 0x00 to 0 and 0x01 to 1, and every map that does is a value of
the parameter. -/
def Obligations.CcDecodeCoversEveryAllowedMap : Prop :=
  (∀ cfg : Config, ccDecode cfg 0x00#8 = false ∧ ccDecode cfg 0x01#8 = true) ∧
  ∀ f : Byte → Bool, f 0x00#8 = false → f 0x01#8 = true →
    ∀ cfg : Config, ∃ l : List Byte, ∀ b, ccDecode { cfg with ccClear := l } b = f b

/-- R118: a parse depends on the bytes of its frame and on nothing else of the receive buffer: two states that agree
on them get the same verdict and results, whatever `rx_cnt`, `rx_ovf` and the later bytes are. -/
def Obligations.ParsersReadOnlyTheirFrame : Prop :=
  (∀ s t : State, (∀ i : Fin 15, i.val < 9 → s.rx[i] = t.rx[i]) → ∃ u v,
    exec .parse2 s = .next u ∧ exec .parse2 t = .next v ∧ u.parseOk = v.parseOk ∧
    (u.parseOk = true → u.resV = v.resV ∧ u.resI = v.resI)) ∧
  (∀ s t : State, (∀ i : Fin 15, i.val < 7 → s.rx[i] = t.rx[i]) → s.cfg.ccClear = t.cfg.ccClear → ∃ u v,
    exec .parse1 s = .next u ∧ exec .parse1 t = .next v ∧ u.parseOk = v.parseOk ∧
    (u.parseOk = true → u.resCc = v.resCc))

/-- R119, R120: after RXCLR with no push both parses fail, with the CRCs the rule gives, and keep the results. -/
def Obligations.NoDataFailsBothParses : Prop :=
  crc16 (List.replicate 7 0x00#8) = 0x001B#16 ∧ crc16 (List.replicate 5 0x00#8) = 0x0024#16 ∧
  ∀ s : State,
    (∃ t, execAll [.rxclr, .parse2] s = .next t ∧ t.parseOk = false ∧ t.resV = s.resV ∧ t.resI = s.resI ∧
      t.resCc = s.resCc) ∧
    (∃ t, execAll [.rxclr, .parse1] s = .next t ∧ t.parseOk = false ∧ t.resV = s.resV ∧ t.resI = s.resI ∧
      t.resCc = s.resCc ∧ t.readPort .ccLed = s.readPort .ccLed)

/-- R120: a failed parse keeps the results, and whatever follows it that is no parse leaves `parse_ok` at the verdict
of the last parse. -/
def Obligations.ParseOkKeepsTheLastVerdict : Prop :=
  ∀ (is : List Instr) (s : State), (∀ i ∈ is, isParse i = false) →
    (∃ t, execAll (.parse2 :: is) s = .next t ∧
      (t.parseOk = true ↔ s.rx[8] ++ s.rx[7]
        = crc16 [s.rx[0], s.rx[1], s.rx[2], s.rx[3], s.rx[4], s.rx[5], s.rx[6]]) ∧
      (t.parseOk = false → t.resV = s.resV ∧ t.resI = s.resI)) ∧
    (∃ t, execAll (.parse1 :: is) s = .next t ∧
      (t.parseOk = true ↔ s.rx[6] ++ s.rx[5] = crc16 [s.rx[0], s.rx[1], s.rx[2], s.rx[3], s.rx[4]]) ∧
      (t.parseOk = false → t.resCc = s.resCc))

/-- R121: any payload of 7 (5) bytes followed by its CRC passes PARSE2 (PARSE1) when pushed into a cleared buffer,
whatever bytes follow; and when any one byte of those 9 (7) is replaced by another, the parse fails. -/
def Obligations.ReceivedFrameIsAcceptedOrDetected : Prop :=
  (∀ (payload more : List Byte) (s : State), payload.length = 7 → ∃ t,
    execAll (.rxclr :: (withCrc payload ++ more).map .rxpush ++ [.parse2]) s = .next t ∧ t.parseOk = true ∧
    ∀ (k : Nat) (x : Byte), k < 9 → (withCrc payload)[k]? ≠ some x → ∃ u,
      execAll (.rxclr :: ((withCrc payload).set k x ++ more).map .rxpush ++ [.parse2]) s = .next u ∧
      u.parseOk = false ∧ u.resV = s.resV ∧ u.resI = s.resI) ∧
  (∀ (payload more : List Byte) (s : State), payload.length = 5 → ∃ t,
    execAll (.rxclr :: (withCrc payload ++ more).map .rxpush ++ [.parse1]) s = .next t ∧ t.parseOk = true ∧
    ∀ (k : Nat) (x : Byte), k < 7 → (withCrc payload)[k]? ≠ some x → ∃ u,
      execAll (.rxclr :: ((withCrc payload).set k x ++ more).map .rxpush ++ [.parse1]) s = .next u ∧
      u.parseOk = false ∧ u.resCc = s.resCc)

/-! ### The wire rows -/

/-- The request rows (R67, R68, R110, R111; that a request row means the frame being built is the model's choice,
log 7): the eight bytes of the frame are in `tx`, and the effect is that of the command that builds it. -/
def Obligations.RequestRowsBuildTheirFrame : Prop :=
  (∀ (slave : Byte) (reg n : Word) (s : State), ∃ t, exec (.mbReadReq slave reg n) s = .next t ∧
    exec (.frmrd slave reg n) s = .next t ∧ encode (.mbReadReq slave reg n) = .frame t.tx.toList ∧
    t.txValid = true ∧ t.decoderPart = s.decoderPart ∧
    t.framerPart = { s.framerPart with tx := t.tx, txValid := true } ∧ t.restPart = s.restPart) ∧
  (∀ (slave : Byte) (reg v : Word) (s : State), ∃ t, exec (.mbWriteReq slave reg v) s = .next t ∧
    exec (.frmwr slave reg v) s = .next t ∧ encode (.mbWriteReq slave reg v) = .frame t.tx.toList ∧
    t.txValid = true ∧ t.decoderPart = s.decoderPart ∧
    t.framerPart = { s.framerPart with tx := t.tx, txValid := true } ∧ t.restPart = s.restPart)

/-- The dual response row (R69, R73, R116; that the row means receiving and parsing is the model's choice, log 8):
the effect is that of RXFRAME of its bytes and PARSE2, and its fields reach the result registers exactly when it is
well formed. -/
def Obligations.DualResponseRowIsReceivedAndParsed : Prop :=
  ∀ (slave func count : Byte) (v i crc : Word) (s : State), ∃ t,
    exec (.mbRead2Resp slave func count v i crc) s = .next t ∧
    (∃ bytes, encode (.mbRead2Resp slave func count v i crc) = .frame bytes ∧ bytes.length = 9 ∧
      execAll (.rxclr :: bytes.map .rxpush ++ [.parse2]) s = .next t ∧
      (∀ k : Fin 15, t.rx[k] = bytes.getD k.val 0x00#8)) ∧
    t.rxCnt = 9#4 ∧ t.rxOvf = false ∧ t.parseOk = WellFormed (.mbRead2Resp slave func count v i crc) ∧
    (if WellFormed (.mbRead2Resp slave func count v i crc) then t.resV = v ∧ t.resI = i
      else t.resV = s.resV ∧ t.resI = s.resI) ∧
    t.resCc = s.resCc ∧ t.crc = s.crc ∧ t.tx = s.tx ∧ t.txValid = s.txValid ∧
    t.decoderPart = s.decoderPart ∧ t.restPart = s.restPart

/-- The single response row (R70, R73, R117; log 8), as the dual one with PARSE1. -/
def Obligations.SingleResponseRowIsReceivedAndParsed : Prop :=
  ∀ (slave func count : Byte) (status crc : Word) (s : State), ∃ t,
    exec (.mbRead1Resp slave func count status crc) s = .next t ∧
    (∃ bytes, encode (.mbRead1Resp slave func count status crc) = .frame bytes ∧ bytes.length = 7 ∧
      execAll (.rxclr :: bytes.map .rxpush ++ [.parse1]) s = .next t ∧
      (∀ k : Fin 15, t.rx[k] = bytes.getD k.val 0x00#8)) ∧
    t.rxCnt = 7#4 ∧ t.rxOvf = false ∧ t.parseOk = WellFormed (.mbRead1Resp slave func count status crc) ∧
    t.resCc = (if WellFormed (.mbRead1Resp slave func count status crc)
      then ccDecode s.cfg (status.extractLsb' 0 8) else s.resCc) ∧
    t.resV = s.resV ∧ t.resI = s.resI ∧ t.crc = s.crc ∧ t.tx = s.tx ∧ t.txValid = s.txValid ∧
    t.decoderPart = s.decoderPart ∧ t.restPart = s.restPart

/-! ### The contract of the agents -/

/-- R155, R152: in a run from reset that keeps the contract, a write request the host may issue carries the setpoint
of its last QREAD, goes to that channel's register at the system's slave, differs from the shadow, and that QREAD saw
at least 400 ticks, modulo 2^TICK_W, since the channel's reference as it latched it. The run is one the model's monitor
of the contract allows (log 12). -/
def Obligations.HostWritesOnlyQuietSetpoints : Prop :=
  ∀ (cfg : Config) (turns : List Turn) (r : Reading) (v v' : HostView) (s : State) (slave : Byte) (reg x : Word),
    contractRun turns HostView.start (State.resetWith cfg []) = some (v, s) →
    contractMove r v s (offerOf .host (.frmwr slave reg x)) = some v' →
      slave = 0x01#8 ∧ x = s.rd.sp ∧ reg = deviceReg s.rd.ch ∧ x ≠ v.shadow s.rd.ch ∧ s.rd.quiet = true ∧
      ((s.rd.tick : Int) - (s.rd.ref : Int)) % (2 : Int) ^ cfg.tickW ≥ 400

/-- R155, its last sentence, and R167: in a run from reset that keeps the contract, after a QTICK that gives a channel an
event, and while fewer than 400 QTICKs have come since, the contract allows no write request to that channel's register,
of any value and to any slave, wherever a QREAD stands. The run is one the model's monitor of the contract allows
(log 12, log 19). -/
def Obligations.NoWriteWithin400TicksOfAnEvent : Prop :=
  ∀ (cfg : Config) (before after : List Turn) (q r : Reading) (v w : HostView) (s t : State) (p0 p1 : Pattern)
    (c : Chan) (slave : Byte) (x : Word),
    contractRun before HostView.start (State.resetWith cfg []) = some (v, s) →
    (lookup s.cfg.qtable (s.chan c).qs (if c = .voltage then p0 else p1)).extractLsb' 4 2 ≠ 0b00#2 →
    contractRun (⟨offerOf .tickAgent (.qtick p0 p1), q⟩ :: after) v s = some (w, t) →
    (after.filter (fun turn => isTickTurn turn)).length < 400 →
      contractMove r w t (offerOf .host (.frmwr slave (deviceReg c) x)) = none

/-- R154: in a run from reset that keeps the contract, the host seeds a setpoint only with the value of a dual read
that succeeded, and issues QREAD, QMULT and FRMWR only after its startup. The run is one the model's monitor of the
contract allows (log 12). -/
def Obligations.HostSeedsOnlyFromConfirmedRead : Prop :=
  ∀ (cfg : Config) (turns : List Turn) (r : Reading) (v v' : HostView) (s : State) (i : Instr),
    contractRun turns HostView.start (State.resetWith cfg []) = some (v, s) →
    contractMove r v s (offerOf .host i) = some v' →
      (∀ c x, i = .qseed c x → s.parseOk = true ∧ x = (if c = .voltage then s.resV else s.resI)) ∧
      (∀ stage, v.phase = .startup stage → isDecoder i = false ∧ mnemonicOf i ≠ "FRMWR")
end

