-- ==== Sys2Proof/Laws/Crc.lean ====
section
/-!
SUPPORT. The CRC: one shift loses no information, so CrcStep is injective in the register and in the byte; the CRC
of a payload followed by two bytes is zero exactly when they are its CRC.
-/

namespace Sys2Proof.Machine

/-- `{h, l}` is `h*256 + l` (00_scope.md R3). -/
theorem concat_toNat (h l : Byte) : (concat h l).toNat = h.toNat * 256 + l.toNat := by
  rw [concat, BitVec.toNat_append, Nat.shiftLeft_eq, Nat.mul_comm, ← Nat.two_pow_add_eq_or_of_lt l.isLt, Nat.mul_comm]

/-- The bits of `{h, l}`. -/
theorem concat_getLsbD (h l : Byte) (i : Nat) :
    (concat h l).getLsbD i = if i < 8 then l.getLsbD i else h.getLsbD (i - 8) := by
  rw [concat, BitVec.getLsbD_append]

theorem hiByte_toNat (w : Word) : (hiByte w).toNat = w.toNat / 256 := by
  have := w.isLt
  simp only [hiByte, BitVec.extractLsb'_toNat, Nat.shiftRight_eq_div_pow]
  omega

theorem loByte_toNat (w : Word) : (loByte w).toNat = w.toNat % 256 := by
  simp [loByte, BitVec.extractLsb'_toNat]

@[simp] theorem concat_hi_lo (w : Word) : concat (hiByte w) (loByte w) = w := by
  apply BitVec.eq_of_toNat_eq
  rw [concat_toNat, hiByte_toNat, loByte_toNat]
  omega

@[simp] theorem hiByte_concat (h l : Byte) : hiByte (concat h l) = h := by
  apply BitVec.eq_of_toNat_eq
  have := l.isLt
  rw [hiByte_toNat, concat_toNat]
  omega

@[simp] theorem loByte_concat (h l : Byte) : loByte (concat h l) = l := by
  apply BitVec.eq_of_toNat_eq
  have := l.isLt
  rw [loByte_toNat, concat_toNat]
  omega

/-- Exclusive-or by a fixed word loses nothing. -/
theorem xor_cancel {a b k : Word} (h : a ^^^ k = b ^^^ k) : a = b := by
  have := congrArg (· ^^^ k) h
  simpa [BitVec.xor_assoc] using this

/-- Two bytes are determined by the word they make. -/
theorem concat_inj {h l h' l' : Byte} : concat h l = concat h' l' ↔ h = h' ∧ l = l' := by
  constructor
  · intro e
    exact ⟨by rw [← hiByte_concat h l, e, hiByte_concat], by rw [← loByte_concat h l, e, loByte_concat]⟩
  · rintro ⟨rfl, rfl⟩
    rfl

/-- Bit 15 after a shift is the bit that was shifted out. -/
theorem crcShift_top (c : Word) : (crcShift c).getLsbD 15 = c.getLsbD 0 := by
  unfold crcShift crcPoly
  cases h : c.getLsbD 0 <;> simp

/-- One shift is injective. -/
theorem crcShift_injective : Function.Injective crcShift := by
  intro c d e
  have h0 : c.getLsbD 0 = d.getLsbD 0 := by rw [← crcShift_top, e, crcShift_top]
  have hs : c >>> 1 = d >>> 1 := by
    unfold crcShift at e
    rw [h0] at e
    split at e
    · exact xor_cancel e
    · exact e
  apply BitVec.eq_of_getLsbD_eq
  intro i hi
  cases i with
  | zero => exact h0
  | succ i =>
    have := congrArg (fun w : Word => w.getLsbD i) hs
    simpa [BitVec.getLsbD_ushiftRight, Nat.add_comm] using this

/-- Eight shifts are injective. -/
theorem crcShifts_injective : Function.Injective (Nat.repeat crcShift 8) := by
  intro c d e
  simp only [Nat.repeat] at e
  exact (crcShift_injective (crcShift_injective (crcShift_injective (crcShift_injective (crcShift_injective
    (crcShift_injective (crcShift_injective (crcShift_injective e))))))))

/-- CrcStep is injective in the register. -/
theorem crcStep_inj_crc {c d : Word} {b : Byte} (h : crcStep c b = crcStep d b) : c = d := by
  exact xor_cancel (crcShifts_injective h)

/-- CrcStep is injective in the byte. -/
theorem crcStep_inj_byte {c : Word} {a b : Byte} (h : crcStep c a = crcStep c b) : a = b := by
  have := crcShifts_injective h
  rw [BitVec.xor_comm c, BitVec.xor_comm c] at this
  simpa using congrArg (BitVec.setWidth 8) (xor_cancel this)

/-- The register after more bytes determines it before them. -/
theorem crcFold_inj {l : List Byte} {c d : Word} (h : l.foldl crcStep c = l.foldl crcStep d) : c = d := by
  induction l generalizing c d with
  | nil => exact h
  | cons b l ih => exact crcStep_inj_crc (ih h)

/-- A register whose low byte equals the byte only shifts its high byte down. -/
theorem crcStep_lo (c : Word) : crcStep c (loByte c) = c >>> 8 := by
  have key : ∀ h : Byte, Nat.repeat crcShift 8 (concat h 0#8) = h.setWidth 16 := by decide +kernel
  have e : c ^^^ (loByte c).setWidth 16 = concat (hiByte c) 0#8 := by
    apply BitVec.eq_of_getLsbD_eq
    intro i hi
    rw [concat_getLsbD, BitVec.getLsbD_xor, BitVec.getLsbD_setWidth, loByte, hiByte, BitVec.getLsbD_extractLsb',
      BitVec.getLsbD_extractLsb']
    by_cases h : i < 8
    · simp [h, hi]
    · have : 8 + (i - 8) = i := by omega
      simp only [h, hi, this, decide_false, Bool.false_and, Bool.and_false, Bool.xor_false, if_false]
      rw [decide_eq_true (by omega : i - 8 < 8), Bool.true_and]
  rw [crcStep, e, key]
  apply BitVec.eq_of_toNat_eq
  have := c.isLt
  simp only [BitVec.toNat_setWidth, hiByte_toNat, BitVec.toNat_ushiftRight, Nat.shiftRight_eq_div_pow]
  omega

/-- The register is zero after its own two bytes, low first (R106). -/
theorem crcStep_own (c : Word) : crcStep (crcStep c (loByte c)) (hiByte c) = 0#16 := by
  have e : c >>> 8 = (hiByte c).setWidth 16 := by
    apply BitVec.eq_of_toNat_eq
    have := c.isLt
    simp only [BitVec.toNat_setWidth, hiByte_toNat, BitVec.toNat_ushiftRight, Nat.shiftRight_eq_div_pow]
    omega
  rw [crcStep_lo, e, crcStep, BitVec.xor_self]
  decide +kernel

/-- The CRC of a list in two parts. -/
theorem crc16_append (a b : List Byte) : crc16 (a ++ b) = b.foldl crcStep (crc16 a) := by
  simp [crc16, List.foldl_append]

/-- Two lists that differ in one byte have different CRCs. -/
theorem crc16_one_byte (before after : List Byte) {x y : Byte} (h : x ≠ y) :
    crc16 (before ++ x :: after) ≠ crc16 (before ++ y :: after) := by
  intro e
  rw [crc16_append, crc16_append, List.foldl_cons, List.foldl_cons] at e
  exact h (crcStep_inj_byte (crcFold_inj e))

end Sys2Proof.Machine
end

