-- ==== Sys2Proof/Laws/State.lean ====
section
/-!
SUPPORT. One lemma per field per update of the state, so that no proof unfolds a record update; then, for each
shared operation that branches, the cases of what it can do.
-/

namespace Sys2Proof.Machine

variable (s : State)

/-! ### setTick -/

@[simp] theorem setTick_cfg (t : Nat) : (s.setTick t).cfg = s.cfg := rfl
@[simp] theorem setTick_volt (t : Nat) : (s.setTick t).volt = s.volt := rfl
@[simp] theorem setTick_curr (t : Nat) : (s.setTick t).curr = s.curr := rfl
@[simp] theorem setTick_tick (t : Nat) : (s.setTick t).tick = t := rfl
@[simp] theorem setTick_rd (t : Nat) : (s.setTick t).rd = s.rd := rfl
@[simp] theorem setTick_crc (t : Nat) : (s.setTick t).crc = s.crc := rfl
@[simp] theorem setTick_tx (t : Nat) : (s.setTick t).tx = s.tx := rfl
@[simp] theorem setTick_txValid (t : Nat) : (s.setTick t).txValid = s.txValid := rfl
@[simp] theorem setTick_rx (t : Nat) : (s.setTick t).rx = s.rx := rfl
@[simp] theorem setTick_rxCnt (t : Nat) : (s.setTick t).rxCnt = s.rxCnt := rfl
@[simp] theorem setTick_rxOvf (t : Nat) : (s.setTick t).rxOvf = s.rxOvf := rfl
@[simp] theorem setTick_resV (t : Nat) : (s.setTick t).resV = s.resV := rfl
@[simp] theorem setTick_resI (t : Nat) : (s.setTick t).resI = s.resI := rfl
@[simp] theorem setTick_resCc (t : Nat) : (s.setTick t).resCc = s.resCc := rfl
@[simp] theorem setTick_parseOk (t : Nat) : (s.setTick t).parseOk = s.parseOk := rfl
@[simp] theorem setTick_cmdErr (t : Nat) : (s.setTick t).cmdErr = s.cmdErr := rfl
@[simp] theorem setTick_rst (t : Nat) : (s.setTick t).rst = s.rst := rfl
@[simp] theorem setTick_inputs (t : Nat) : (s.setTick t).inputs = s.inputs := rfl
@[simp] theorem setTick_chan (t : Nat) (k : Chan) : (s.setTick t).chan k = s.chan k := by cases k <;> rfl

/-! ### setRd -/

@[simp] theorem setRd_cfg (rd : ReadOut) : (s.setRd rd).cfg = s.cfg := rfl
@[simp] theorem setRd_volt (rd : ReadOut) : (s.setRd rd).volt = s.volt := rfl
@[simp] theorem setRd_curr (rd : ReadOut) : (s.setRd rd).curr = s.curr := rfl
@[simp] theorem setRd_tick (rd : ReadOut) : (s.setRd rd).tick = s.tick := rfl
@[simp] theorem setRd_rd (rd : ReadOut) : (s.setRd rd).rd = rd := rfl
@[simp] theorem setRd_crc (rd : ReadOut) : (s.setRd rd).crc = s.crc := rfl
@[simp] theorem setRd_tx (rd : ReadOut) : (s.setRd rd).tx = s.tx := rfl
@[simp] theorem setRd_txValid (rd : ReadOut) : (s.setRd rd).txValid = s.txValid := rfl
@[simp] theorem setRd_rx (rd : ReadOut) : (s.setRd rd).rx = s.rx := rfl
@[simp] theorem setRd_rxCnt (rd : ReadOut) : (s.setRd rd).rxCnt = s.rxCnt := rfl
@[simp] theorem setRd_rxOvf (rd : ReadOut) : (s.setRd rd).rxOvf = s.rxOvf := rfl
@[simp] theorem setRd_resV (rd : ReadOut) : (s.setRd rd).resV = s.resV := rfl
@[simp] theorem setRd_resI (rd : ReadOut) : (s.setRd rd).resI = s.resI := rfl
@[simp] theorem setRd_resCc (rd : ReadOut) : (s.setRd rd).resCc = s.resCc := rfl
@[simp] theorem setRd_parseOk (rd : ReadOut) : (s.setRd rd).parseOk = s.parseOk := rfl
@[simp] theorem setRd_cmdErr (rd : ReadOut) : (s.setRd rd).cmdErr = s.cmdErr := rfl
@[simp] theorem setRd_rst (rd : ReadOut) : (s.setRd rd).rst = s.rst := rfl
@[simp] theorem setRd_inputs (rd : ReadOut) : (s.setRd rd).inputs = s.inputs := rfl
@[simp] theorem setRd_chan (rd : ReadOut) (k : Chan) : (s.setRd rd).chan k = s.chan k := by cases k <;> rfl

/-! ### setCrc -/

@[simp] theorem setCrc_cfg (c : Word) : (s.setCrc c).cfg = s.cfg := rfl
@[simp] theorem setCrc_volt (c : Word) : (s.setCrc c).volt = s.volt := rfl
@[simp] theorem setCrc_curr (c : Word) : (s.setCrc c).curr = s.curr := rfl
@[simp] theorem setCrc_tick (c : Word) : (s.setCrc c).tick = s.tick := rfl
@[simp] theorem setCrc_rd (c : Word) : (s.setCrc c).rd = s.rd := rfl
@[simp] theorem setCrc_crc (c : Word) : (s.setCrc c).crc = c := rfl
@[simp] theorem setCrc_tx (c : Word) : (s.setCrc c).tx = s.tx := rfl
@[simp] theorem setCrc_txValid (c : Word) : (s.setCrc c).txValid = s.txValid := rfl
@[simp] theorem setCrc_rx (c : Word) : (s.setCrc c).rx = s.rx := rfl
@[simp] theorem setCrc_rxCnt (c : Word) : (s.setCrc c).rxCnt = s.rxCnt := rfl
@[simp] theorem setCrc_rxOvf (c : Word) : (s.setCrc c).rxOvf = s.rxOvf := rfl
@[simp] theorem setCrc_resV (c : Word) : (s.setCrc c).resV = s.resV := rfl
@[simp] theorem setCrc_resI (c : Word) : (s.setCrc c).resI = s.resI := rfl
@[simp] theorem setCrc_resCc (c : Word) : (s.setCrc c).resCc = s.resCc := rfl
@[simp] theorem setCrc_parseOk (c : Word) : (s.setCrc c).parseOk = s.parseOk := rfl
@[simp] theorem setCrc_cmdErr (c : Word) : (s.setCrc c).cmdErr = s.cmdErr := rfl
@[simp] theorem setCrc_rst (c : Word) : (s.setCrc c).rst = s.rst := rfl
@[simp] theorem setCrc_inputs (c : Word) : (s.setCrc c).inputs = s.inputs := rfl
@[simp] theorem setCrc_chan (c : Word) (k : Chan) : (s.setCrc c).chan k = s.chan k := by cases k <;> rfl

/-! ### loadTx -/

@[simp] theorem loadTx_cfg (f : Vector Byte 8) : (s.loadTx f).cfg = s.cfg := rfl
@[simp] theorem loadTx_volt (f : Vector Byte 8) : (s.loadTx f).volt = s.volt := rfl
@[simp] theorem loadTx_curr (f : Vector Byte 8) : (s.loadTx f).curr = s.curr := rfl
@[simp] theorem loadTx_tick (f : Vector Byte 8) : (s.loadTx f).tick = s.tick := rfl
@[simp] theorem loadTx_rd (f : Vector Byte 8) : (s.loadTx f).rd = s.rd := rfl
@[simp] theorem loadTx_crc (f : Vector Byte 8) : (s.loadTx f).crc = s.crc := rfl
@[simp] theorem loadTx_tx (f : Vector Byte 8) : (s.loadTx f).tx = f := rfl
@[simp] theorem loadTx_txValid (f : Vector Byte 8) : (s.loadTx f).txValid = true := rfl
@[simp] theorem loadTx_rx (f : Vector Byte 8) : (s.loadTx f).rx = s.rx := rfl
@[simp] theorem loadTx_rxCnt (f : Vector Byte 8) : (s.loadTx f).rxCnt = s.rxCnt := rfl
@[simp] theorem loadTx_rxOvf (f : Vector Byte 8) : (s.loadTx f).rxOvf = s.rxOvf := rfl
@[simp] theorem loadTx_resV (f : Vector Byte 8) : (s.loadTx f).resV = s.resV := rfl
@[simp] theorem loadTx_resI (f : Vector Byte 8) : (s.loadTx f).resI = s.resI := rfl
@[simp] theorem loadTx_resCc (f : Vector Byte 8) : (s.loadTx f).resCc = s.resCc := rfl
@[simp] theorem loadTx_parseOk (f : Vector Byte 8) : (s.loadTx f).parseOk = s.parseOk := rfl
@[simp] theorem loadTx_cmdErr (f : Vector Byte 8) : (s.loadTx f).cmdErr = s.cmdErr := rfl
@[simp] theorem loadTx_rst (f : Vector Byte 8) : (s.loadTx f).rst = s.rst := rfl
@[simp] theorem loadTx_inputs (f : Vector Byte 8) : (s.loadTx f).inputs = s.inputs := rfl
@[simp] theorem loadTx_chan (f : Vector Byte 8) (k : Chan) : (s.loadTx f).chan k = s.chan k := by cases k <;> rfl

/-! ### clearRx -/

@[simp] theorem clearRx_cfg : (s.clearRx).cfg = s.cfg := rfl
@[simp] theorem clearRx_volt : (s.clearRx).volt = s.volt := rfl
@[simp] theorem clearRx_curr : (s.clearRx).curr = s.curr := rfl
@[simp] theorem clearRx_tick : (s.clearRx).tick = s.tick := rfl
@[simp] theorem clearRx_rd : (s.clearRx).rd = s.rd := rfl
@[simp] theorem clearRx_crc : (s.clearRx).crc = s.crc := rfl
@[simp] theorem clearRx_tx : (s.clearRx).tx = s.tx := rfl
@[simp] theorem clearRx_txValid : (s.clearRx).txValid = s.txValid := rfl
@[simp] theorem clearRx_rx : (s.clearRx).rx = Vector.replicate 15 0x00#8 := rfl
@[simp] theorem clearRx_rxCnt : (s.clearRx).rxCnt = 0#4 := rfl
@[simp] theorem clearRx_rxOvf : (s.clearRx).rxOvf = false := rfl
@[simp] theorem clearRx_resV : (s.clearRx).resV = s.resV := rfl
@[simp] theorem clearRx_resI : (s.clearRx).resI = s.resI := rfl
@[simp] theorem clearRx_resCc : (s.clearRx).resCc = s.resCc := rfl
@[simp] theorem clearRx_parseOk : (s.clearRx).parseOk = s.parseOk := rfl
@[simp] theorem clearRx_cmdErr : (s.clearRx).cmdErr = s.cmdErr := rfl
@[simp] theorem clearRx_rst : (s.clearRx).rst = s.rst := rfl
@[simp] theorem clearRx_inputs : (s.clearRx).inputs = s.inputs := rfl
@[simp] theorem clearRx_chan (k : Chan) : (s.clearRx).chan k = s.chan k := by cases k <;> rfl

/-! ### setDual -/

@[simp] theorem setDual_cfg (v i : Word) : (s.setDual v i).cfg = s.cfg := rfl
@[simp] theorem setDual_volt (v i : Word) : (s.setDual v i).volt = s.volt := rfl
@[simp] theorem setDual_curr (v i : Word) : (s.setDual v i).curr = s.curr := rfl
@[simp] theorem setDual_tick (v i : Word) : (s.setDual v i).tick = s.tick := rfl
@[simp] theorem setDual_rd (v i : Word) : (s.setDual v i).rd = s.rd := rfl
@[simp] theorem setDual_crc (v i : Word) : (s.setDual v i).crc = s.crc := rfl
@[simp] theorem setDual_tx (v i : Word) : (s.setDual v i).tx = s.tx := rfl
@[simp] theorem setDual_txValid (v i : Word) : (s.setDual v i).txValid = s.txValid := rfl
@[simp] theorem setDual_rx (v i : Word) : (s.setDual v i).rx = s.rx := rfl
@[simp] theorem setDual_rxCnt (v i : Word) : (s.setDual v i).rxCnt = s.rxCnt := rfl
@[simp] theorem setDual_rxOvf (v i : Word) : (s.setDual v i).rxOvf = s.rxOvf := rfl
@[simp] theorem setDual_resV (v i : Word) : (s.setDual v i).resV = v := rfl
@[simp] theorem setDual_resI (v i : Word) : (s.setDual v i).resI = i := rfl
@[simp] theorem setDual_resCc (v i : Word) : (s.setDual v i).resCc = s.resCc := rfl
@[simp] theorem setDual_parseOk (v i : Word) : (s.setDual v i).parseOk = true := rfl
@[simp] theorem setDual_cmdErr (v i : Word) : (s.setDual v i).cmdErr = s.cmdErr := rfl
@[simp] theorem setDual_rst (v i : Word) : (s.setDual v i).rst = s.rst := rfl
@[simp] theorem setDual_inputs (v i : Word) : (s.setDual v i).inputs = s.inputs := rfl
@[simp] theorem setDual_chan (v i : Word) (k : Chan) : (s.setDual v i).chan k = s.chan k := by cases k <;> rfl

/-! ### setCc -/

@[simp] theorem setCc_cfg (b : Bool) : (s.setCc b).cfg = s.cfg := rfl
@[simp] theorem setCc_volt (b : Bool) : (s.setCc b).volt = s.volt := rfl
@[simp] theorem setCc_curr (b : Bool) : (s.setCc b).curr = s.curr := rfl
@[simp] theorem setCc_tick (b : Bool) : (s.setCc b).tick = s.tick := rfl
@[simp] theorem setCc_rd (b : Bool) : (s.setCc b).rd = s.rd := rfl
@[simp] theorem setCc_crc (b : Bool) : (s.setCc b).crc = s.crc := rfl
@[simp] theorem setCc_tx (b : Bool) : (s.setCc b).tx = s.tx := rfl
@[simp] theorem setCc_txValid (b : Bool) : (s.setCc b).txValid = s.txValid := rfl
@[simp] theorem setCc_rx (b : Bool) : (s.setCc b).rx = s.rx := rfl
@[simp] theorem setCc_rxCnt (b : Bool) : (s.setCc b).rxCnt = s.rxCnt := rfl
@[simp] theorem setCc_rxOvf (b : Bool) : (s.setCc b).rxOvf = s.rxOvf := rfl
@[simp] theorem setCc_resV (b : Bool) : (s.setCc b).resV = s.resV := rfl
@[simp] theorem setCc_resI (b : Bool) : (s.setCc b).resI = s.resI := rfl
@[simp] theorem setCc_resCc (b : Bool) : (s.setCc b).resCc = b := rfl
@[simp] theorem setCc_parseOk (b : Bool) : (s.setCc b).parseOk = true := rfl
@[simp] theorem setCc_cmdErr (b : Bool) : (s.setCc b).cmdErr = s.cmdErr := rfl
@[simp] theorem setCc_rst (b : Bool) : (s.setCc b).rst = s.rst := rfl
@[simp] theorem setCc_inputs (b : Bool) : (s.setCc b).inputs = s.inputs := rfl
@[simp] theorem setCc_chan (b : Bool) (k : Chan) : (s.setCc b).chan k = s.chan k := by cases k <;> rfl

/-! ### failParse -/

@[simp] theorem failParse_cfg : (s.failParse).cfg = s.cfg := rfl
@[simp] theorem failParse_volt : (s.failParse).volt = s.volt := rfl
@[simp] theorem failParse_curr : (s.failParse).curr = s.curr := rfl
@[simp] theorem failParse_tick : (s.failParse).tick = s.tick := rfl
@[simp] theorem failParse_rd : (s.failParse).rd = s.rd := rfl
@[simp] theorem failParse_crc : (s.failParse).crc = s.crc := rfl
@[simp] theorem failParse_tx : (s.failParse).tx = s.tx := rfl
@[simp] theorem failParse_txValid : (s.failParse).txValid = s.txValid := rfl
@[simp] theorem failParse_rx : (s.failParse).rx = s.rx := rfl
@[simp] theorem failParse_rxCnt : (s.failParse).rxCnt = s.rxCnt := rfl
@[simp] theorem failParse_rxOvf : (s.failParse).rxOvf = s.rxOvf := rfl
@[simp] theorem failParse_resV : (s.failParse).resV = s.resV := rfl
@[simp] theorem failParse_resI : (s.failParse).resI = s.resI := rfl
@[simp] theorem failParse_resCc : (s.failParse).resCc = s.resCc := rfl
@[simp] theorem failParse_parseOk : (s.failParse).parseOk = false := rfl
@[simp] theorem failParse_cmdErr : (s.failParse).cmdErr = s.cmdErr := rfl
@[simp] theorem failParse_rst : (s.failParse).rst = s.rst := rfl
@[simp] theorem failParse_inputs : (s.failParse).inputs = s.inputs := rfl
@[simp] theorem failParse_chan (k : Chan) : (s.failParse).chan k = s.chan k := by cases k <;> rfl

/-! ### cmdError -/

@[simp] theorem cmdError_cfg : (s.cmdError).cfg = s.cfg := rfl
@[simp] theorem cmdError_volt : (s.cmdError).volt = s.volt := rfl
@[simp] theorem cmdError_curr : (s.cmdError).curr = s.curr := rfl
@[simp] theorem cmdError_tick : (s.cmdError).tick = s.tick := rfl
@[simp] theorem cmdError_rd : (s.cmdError).rd = s.rd := rfl
@[simp] theorem cmdError_crc : (s.cmdError).crc = s.crc := rfl
@[simp] theorem cmdError_tx : (s.cmdError).tx = s.tx := rfl
@[simp] theorem cmdError_txValid : (s.cmdError).txValid = s.txValid := rfl
@[simp] theorem cmdError_rx : (s.cmdError).rx = s.rx := rfl
@[simp] theorem cmdError_rxCnt : (s.cmdError).rxCnt = s.rxCnt := rfl
@[simp] theorem cmdError_rxOvf : (s.cmdError).rxOvf = s.rxOvf := rfl
@[simp] theorem cmdError_resV : (s.cmdError).resV = s.resV := rfl
@[simp] theorem cmdError_resI : (s.cmdError).resI = s.resI := rfl
@[simp] theorem cmdError_resCc : (s.cmdError).resCc = s.resCc := rfl
@[simp] theorem cmdError_parseOk : (s.cmdError).parseOk = s.parseOk := rfl
@[simp] theorem cmdError_cmdErr : (s.cmdError).cmdErr = true := rfl
@[simp] theorem cmdError_rst : (s.cmdError).rst = s.rst := rfl
@[simp] theorem cmdError_inputs : (s.cmdError).inputs = s.inputs := rfl
@[simp] theorem cmdError_chan (k : Chan) : (s.cmdError).chan k = s.chan k := by cases k <;> rfl

/-! ### setInputs -/

@[simp] theorem setInputs_cfg (l : List Input) : (s.setInputs l).cfg = s.cfg := rfl
@[simp] theorem setInputs_volt (l : List Input) : (s.setInputs l).volt = s.volt := rfl
@[simp] theorem setInputs_curr (l : List Input) : (s.setInputs l).curr = s.curr := rfl
@[simp] theorem setInputs_tick (l : List Input) : (s.setInputs l).tick = s.tick := rfl
@[simp] theorem setInputs_rd (l : List Input) : (s.setInputs l).rd = s.rd := rfl
@[simp] theorem setInputs_crc (l : List Input) : (s.setInputs l).crc = s.crc := rfl
@[simp] theorem setInputs_tx (l : List Input) : (s.setInputs l).tx = s.tx := rfl
@[simp] theorem setInputs_txValid (l : List Input) : (s.setInputs l).txValid = s.txValid := rfl
@[simp] theorem setInputs_rx (l : List Input) : (s.setInputs l).rx = s.rx := rfl
@[simp] theorem setInputs_rxCnt (l : List Input) : (s.setInputs l).rxCnt = s.rxCnt := rfl
@[simp] theorem setInputs_rxOvf (l : List Input) : (s.setInputs l).rxOvf = s.rxOvf := rfl
@[simp] theorem setInputs_resV (l : List Input) : (s.setInputs l).resV = s.resV := rfl
@[simp] theorem setInputs_resI (l : List Input) : (s.setInputs l).resI = s.resI := rfl
@[simp] theorem setInputs_resCc (l : List Input) : (s.setInputs l).resCc = s.resCc := rfl
@[simp] theorem setInputs_parseOk (l : List Input) : (s.setInputs l).parseOk = s.parseOk := rfl
@[simp] theorem setInputs_cmdErr (l : List Input) : (s.setInputs l).cmdErr = s.cmdErr := rfl
@[simp] theorem setInputs_rst (l : List Input) : (s.setInputs l).rst = s.rst := rfl
@[simp] theorem setInputs_inputs (l : List Input) : (s.setInputs l).inputs = l := rfl
@[simp] theorem setInputs_chan (l : List Input) (k : Chan) : (s.setInputs l).chan k = s.chan k := by cases k <;> rfl

/-! ### setRst -/

@[simp] theorem setRst_cfg (level : Bool) : (s.setRst level).cfg = s.cfg := rfl
@[simp] theorem setRst_volt (level : Bool) : (s.setRst level).volt = s.volt := rfl
@[simp] theorem setRst_curr (level : Bool) : (s.setRst level).curr = s.curr := rfl
@[simp] theorem setRst_tick (level : Bool) : (s.setRst level).tick = s.tick := rfl
@[simp] theorem setRst_rd (level : Bool) : (s.setRst level).rd = s.rd := rfl
@[simp] theorem setRst_crc (level : Bool) : (s.setRst level).crc = s.crc := rfl
@[simp] theorem setRst_tx (level : Bool) : (s.setRst level).tx = s.tx := rfl
@[simp] theorem setRst_txValid (level : Bool) : (s.setRst level).txValid = s.txValid := rfl
@[simp] theorem setRst_rx (level : Bool) : (s.setRst level).rx = s.rx := rfl
@[simp] theorem setRst_rxCnt (level : Bool) : (s.setRst level).rxCnt = s.rxCnt := rfl
@[simp] theorem setRst_rxOvf (level : Bool) : (s.setRst level).rxOvf = s.rxOvf := rfl
@[simp] theorem setRst_resV (level : Bool) : (s.setRst level).resV = s.resV := rfl
@[simp] theorem setRst_resI (level : Bool) : (s.setRst level).resI = s.resI := rfl
@[simp] theorem setRst_resCc (level : Bool) : (s.setRst level).resCc = s.resCc := rfl
@[simp] theorem setRst_parseOk (level : Bool) : (s.setRst level).parseOk = s.parseOk := rfl
@[simp] theorem setRst_cmdErr (level : Bool) : (s.setRst level).cmdErr = s.cmdErr := rfl
@[simp] theorem setRst_rst (level : Bool) : (s.setRst level).rst = level := rfl
@[simp] theorem setRst_inputs (level : Bool) : (s.setRst level).inputs = s.inputs := rfl
@[simp] theorem setRst_chan (level : Bool) (k : Chan) : (s.setRst level).chan k = s.chan k := by cases k <;> rfl

/-! ### setChan -/

@[simp] theorem setChan_cfg (k : Chan) (ch : Channel) : (s.setChan k ch).cfg = s.cfg := by cases k <;> rfl
@[simp] theorem setChan_tick (k : Chan) (ch : Channel) : (s.setChan k ch).tick = s.tick := by cases k <;> rfl
@[simp] theorem setChan_rd (k : Chan) (ch : Channel) : (s.setChan k ch).rd = s.rd := by cases k <;> rfl
@[simp] theorem setChan_crc (k : Chan) (ch : Channel) : (s.setChan k ch).crc = s.crc := by cases k <;> rfl
@[simp] theorem setChan_tx (k : Chan) (ch : Channel) : (s.setChan k ch).tx = s.tx := by cases k <;> rfl
@[simp] theorem setChan_txValid (k : Chan) (ch : Channel) : (s.setChan k ch).txValid = s.txValid := by cases k <;> rfl
@[simp] theorem setChan_rx (k : Chan) (ch : Channel) : (s.setChan k ch).rx = s.rx := by cases k <;> rfl
@[simp] theorem setChan_rxCnt (k : Chan) (ch : Channel) : (s.setChan k ch).rxCnt = s.rxCnt := by cases k <;> rfl
@[simp] theorem setChan_rxOvf (k : Chan) (ch : Channel) : (s.setChan k ch).rxOvf = s.rxOvf := by cases k <;> rfl
@[simp] theorem setChan_resV (k : Chan) (ch : Channel) : (s.setChan k ch).resV = s.resV := by cases k <;> rfl
@[simp] theorem setChan_resI (k : Chan) (ch : Channel) : (s.setChan k ch).resI = s.resI := by cases k <;> rfl
@[simp] theorem setChan_resCc (k : Chan) (ch : Channel) : (s.setChan k ch).resCc = s.resCc := by cases k <;> rfl
@[simp] theorem setChan_parseOk (k : Chan) (ch : Channel) : (s.setChan k ch).parseOk = s.parseOk := by cases k <;> rfl
@[simp] theorem setChan_cmdErr (k : Chan) (ch : Channel) : (s.setChan k ch).cmdErr = s.cmdErr := by cases k <;> rfl
@[simp] theorem setChan_rst (k : Chan) (ch : Channel) : (s.setChan k ch).rst = s.rst := by cases k <;> rfl
@[simp] theorem setChan_inputs (k : Chan) (ch : Channel) : (s.setChan k ch).inputs = s.inputs := by cases k <;> rfl
@[simp] theorem setChan_chan_same (k : Chan) (ch : Channel) : (s.setChan k ch).chan k = ch := by cases k <;> rfl

theorem setChan_chan_other (k j : Chan) (ch : Channel) (h : j ≠ k) : (s.setChan k ch).chan j = s.chan j := by
  cases k <;> cases j <;> first | rfl | exact absurd rfl h

@[simp] theorem setChan_voltage_volt (ch : Channel) : (s.setChan .voltage ch).volt = ch := rfl
@[simp] theorem setChan_voltage_curr (ch : Channel) : (s.setChan .voltage ch).curr = s.curr := rfl
@[simp] theorem setChan_current_curr (ch : Channel) : (s.setChan .current ch).curr = ch := rfl
@[simp] theorem setChan_current_volt (ch : Channel) : (s.setChan .current ch).volt = s.volt := rfl
@[simp] theorem chan_voltage : s.chan .voltage = s.volt := rfl
@[simp] theorem chan_current : s.chan .current = s.curr := rfl

/-- Writing back the registers a channel already has changes nothing. -/
theorem setChan_self (k : Chan) : s.setChan k (s.chan k) = s := by cases k <;> rfl

/-- Two writes of one channel: the second stands. -/
theorem setChan_setChan (k : Chan) (a b : Channel) : (s.setChan k a).setChan k b = s.setChan k b := by
  cases k <;> rfl

/-! ### pushRx -/

/-- What RXPUSH can do (R115): with room the byte is stored at `rx_cnt`, without it only `rx_ovf` is set. -/
theorem pushRx_cases (b : Byte) :
    (s.rxCnt.toNat < 15 ∧
      s.pushRx b = { s with rx := s.rx.setIfInBounds s.rxCnt.toNat b, rxCnt := s.rxCnt + 1#4 }) ∨
    (s.rxCnt.toNat = 15 ∧ s.pushRx b = { s with rxOvf := true }) := by
  have hb := s.rxCnt.isLt
  by_cases h : s.rxCnt.toNat < 15
  · exact .inl ⟨h, by simp [State.pushRx, rxHasRoom, rxCap, h]⟩
  · exact .inr ⟨by omega, by simp [State.pushRx, rxHasRoom, rxCap, h]⟩

@[simp] theorem pushRx_cfg (b : Byte) : (s.pushRx b).cfg = s.cfg := by unfold State.pushRx; split <;> rfl
@[simp] theorem pushRx_volt (b : Byte) : (s.pushRx b).volt = s.volt := by unfold State.pushRx; split <;> rfl
@[simp] theorem pushRx_curr (b : Byte) : (s.pushRx b).curr = s.curr := by unfold State.pushRx; split <;> rfl
@[simp] theorem pushRx_tick (b : Byte) : (s.pushRx b).tick = s.tick := by unfold State.pushRx; split <;> rfl
@[simp] theorem pushRx_rd (b : Byte) : (s.pushRx b).rd = s.rd := by unfold State.pushRx; split <;> rfl
@[simp] theorem pushRx_crc (b : Byte) : (s.pushRx b).crc = s.crc := by unfold State.pushRx; split <;> rfl
@[simp] theorem pushRx_tx (b : Byte) : (s.pushRx b).tx = s.tx := by unfold State.pushRx; split <;> rfl
@[simp] theorem pushRx_txValid (b : Byte) : (s.pushRx b).txValid = s.txValid := by unfold State.pushRx; split <;> rfl
@[simp] theorem pushRx_resV (b : Byte) : (s.pushRx b).resV = s.resV := by unfold State.pushRx; split <;> rfl
@[simp] theorem pushRx_resI (b : Byte) : (s.pushRx b).resI = s.resI := by unfold State.pushRx; split <;> rfl
@[simp] theorem pushRx_resCc (b : Byte) : (s.pushRx b).resCc = s.resCc := by unfold State.pushRx; split <;> rfl
@[simp] theorem pushRx_parseOk (b : Byte) : (s.pushRx b).parseOk = s.parseOk := by unfold State.pushRx; split <;> rfl
@[simp] theorem pushRx_cmdErr (b : Byte) : (s.pushRx b).cmdErr = s.cmdErr := by unfold State.pushRx; split <;> rfl
@[simp] theorem pushRx_rst (b : Byte) : (s.pushRx b).rst = s.rst := by unfold State.pushRx; split <;> rfl
@[simp] theorem pushRx_inputs (b : Byte) : (s.pushRx b).inputs = s.inputs := by unfold State.pushRx; split <;> rfl
@[simp] theorem pushRx_chan (b : Byte) (k : Chan) : (s.pushRx b).chan k = s.chan k := by cases k <;> simp [State.chan]

/-! ### pushAll -/

@[simp] theorem pushAll_nil : s.pushAll [] = s := rfl
@[simp] theorem pushAll_cons (b : Byte) (l : List Byte) : s.pushAll (b :: l) = (s.pushRx b).pushAll l := rfl

@[simp] theorem pushAll_cfg (l : List Byte) : (s.pushAll l).cfg = s.cfg := by
  induction l generalizing s with
  | nil => rfl
  | cons b l ih => simp [ih]
@[simp] theorem pushAll_volt (l : List Byte) : (s.pushAll l).volt = s.volt := by
  induction l generalizing s with
  | nil => rfl
  | cons b l ih => simp [ih]
@[simp] theorem pushAll_curr (l : List Byte) : (s.pushAll l).curr = s.curr := by
  induction l generalizing s with
  | nil => rfl
  | cons b l ih => simp [ih]
@[simp] theorem pushAll_tick (l : List Byte) : (s.pushAll l).tick = s.tick := by
  induction l generalizing s with
  | nil => rfl
  | cons b l ih => simp [ih]
@[simp] theorem pushAll_rd (l : List Byte) : (s.pushAll l).rd = s.rd := by
  induction l generalizing s with
  | nil => rfl
  | cons b l ih => simp [ih]
@[simp] theorem pushAll_crc (l : List Byte) : (s.pushAll l).crc = s.crc := by
  induction l generalizing s with
  | nil => rfl
  | cons b l ih => simp [ih]
@[simp] theorem pushAll_tx (l : List Byte) : (s.pushAll l).tx = s.tx := by
  induction l generalizing s with
  | nil => rfl
  | cons b l ih => simp [ih]
@[simp] theorem pushAll_txValid (l : List Byte) : (s.pushAll l).txValid = s.txValid := by
  induction l generalizing s with
  | nil => rfl
  | cons b l ih => simp [ih]
@[simp] theorem pushAll_resV (l : List Byte) : (s.pushAll l).resV = s.resV := by
  induction l generalizing s with
  | nil => rfl
  | cons b l ih => simp [ih]
@[simp] theorem pushAll_resI (l : List Byte) : (s.pushAll l).resI = s.resI := by
  induction l generalizing s with
  | nil => rfl
  | cons b l ih => simp [ih]
@[simp] theorem pushAll_resCc (l : List Byte) : (s.pushAll l).resCc = s.resCc := by
  induction l generalizing s with
  | nil => rfl
  | cons b l ih => simp [ih]
@[simp] theorem pushAll_parseOk (l : List Byte) : (s.pushAll l).parseOk = s.parseOk := by
  induction l generalizing s with
  | nil => rfl
  | cons b l ih => simp [ih]
@[simp] theorem pushAll_cmdErr (l : List Byte) : (s.pushAll l).cmdErr = s.cmdErr := by
  induction l generalizing s with
  | nil => rfl
  | cons b l ih => simp [ih]
@[simp] theorem pushAll_rst (l : List Byte) : (s.pushAll l).rst = s.rst := by
  induction l generalizing s with
  | nil => rfl
  | cons b l ih => simp [ih]
@[simp] theorem pushAll_inputs (l : List Byte) : (s.pushAll l).inputs = s.inputs := by
  induction l generalizing s with
  | nil => rfl
  | cons b l ih => simp [ih]

/-! ### parseDual and parseSingle -/

/-- What PARSE2 can do (R116). -/
theorem parseDual_cases :
    (dualOk s = true ∧ s.parseDual = s.setDual (concat s.rx[3] s.rx[4]) (concat s.rx[5] s.rx[6])) ∨
    (dualOk s = false ∧ s.parseDual = s.failParse) := by
  cases h : dualOk s
  · exact .inr ⟨rfl, by simp [State.parseDual, h]⟩
  · exact .inl ⟨rfl, by simp [State.parseDual, h]⟩

/-- What PARSE1 can do (R117). -/
theorem parseSingle_cases :
    (singleOk s = true ∧ s.parseSingle = s.setCc (ccDecode s.cfg s.rx[4])) ∨
    (singleOk s = false ∧ s.parseSingle = s.failParse) := by
  cases h : singleOk s
  · exact .inr ⟨rfl, by simp [State.parseSingle, h]⟩
  · exact .inl ⟨rfl, by simp [State.parseSingle, h]⟩

@[simp] theorem parseDual_cfg : s.parseDual.cfg = s.cfg := by unfold State.parseDual; split <;> rfl
@[simp] theorem parseDual_volt : s.parseDual.volt = s.volt := by unfold State.parseDual; split <;> rfl
@[simp] theorem parseDual_curr : s.parseDual.curr = s.curr := by unfold State.parseDual; split <;> rfl
@[simp] theorem parseDual_tick : s.parseDual.tick = s.tick := by unfold State.parseDual; split <;> rfl
@[simp] theorem parseDual_rd : s.parseDual.rd = s.rd := by unfold State.parseDual; split <;> rfl
@[simp] theorem parseDual_crc : s.parseDual.crc = s.crc := by unfold State.parseDual; split <;> rfl
@[simp] theorem parseDual_tx : s.parseDual.tx = s.tx := by unfold State.parseDual; split <;> rfl
@[simp] theorem parseDual_txValid : s.parseDual.txValid = s.txValid := by unfold State.parseDual; split <;> rfl
@[simp] theorem parseDual_rx : s.parseDual.rx = s.rx := by unfold State.parseDual; split <;> rfl
@[simp] theorem parseDual_rxCnt : s.parseDual.rxCnt = s.rxCnt := by unfold State.parseDual; split <;> rfl
@[simp] theorem parseDual_rxOvf : s.parseDual.rxOvf = s.rxOvf := by unfold State.parseDual; split <;> rfl
@[simp] theorem parseDual_resCc : s.parseDual.resCc = s.resCc := by unfold State.parseDual; split <;> rfl
@[simp] theorem parseDual_cmdErr : s.parseDual.cmdErr = s.cmdErr := by unfold State.parseDual; split <;> rfl
@[simp] theorem parseDual_rst : s.parseDual.rst = s.rst := by unfold State.parseDual; split <;> rfl
@[simp] theorem parseDual_inputs : s.parseDual.inputs = s.inputs := by unfold State.parseDual; split <;> rfl
@[simp] theorem parseDual_chan (k : Chan) : s.parseDual.chan k = s.chan k := by cases k <;> simp [State.chan]
@[simp] theorem parseSingle_cfg : s.parseSingle.cfg = s.cfg := by unfold State.parseSingle; split <;> rfl
@[simp] theorem parseSingle_volt : s.parseSingle.volt = s.volt := by unfold State.parseSingle; split <;> rfl
@[simp] theorem parseSingle_curr : s.parseSingle.curr = s.curr := by unfold State.parseSingle; split <;> rfl
@[simp] theorem parseSingle_tick : s.parseSingle.tick = s.tick := by unfold State.parseSingle; split <;> rfl
@[simp] theorem parseSingle_rd : s.parseSingle.rd = s.rd := by unfold State.parseSingle; split <;> rfl
@[simp] theorem parseSingle_crc : s.parseSingle.crc = s.crc := by unfold State.parseSingle; split <;> rfl
@[simp] theorem parseSingle_tx : s.parseSingle.tx = s.tx := by unfold State.parseSingle; split <;> rfl
@[simp] theorem parseSingle_txValid : s.parseSingle.txValid = s.txValid := by unfold State.parseSingle; split <;> rfl
@[simp] theorem parseSingle_rx : s.parseSingle.rx = s.rx := by unfold State.parseSingle; split <;> rfl
@[simp] theorem parseSingle_rxCnt : s.parseSingle.rxCnt = s.rxCnt := by unfold State.parseSingle; split <;> rfl
@[simp] theorem parseSingle_rxOvf : s.parseSingle.rxOvf = s.rxOvf := by unfold State.parseSingle; split <;> rfl
@[simp] theorem parseSingle_resV : s.parseSingle.resV = s.resV := by unfold State.parseSingle; split <;> rfl
@[simp] theorem parseSingle_resI : s.parseSingle.resI = s.resI := by unfold State.parseSingle; split <;> rfl
@[simp] theorem parseSingle_cmdErr : s.parseSingle.cmdErr = s.cmdErr := by unfold State.parseSingle; split <;> rfl
@[simp] theorem parseSingle_rst : s.parseSingle.rst = s.rst := by unfold State.parseSingle; split <;> rfl
@[simp] theorem parseSingle_inputs : s.parseSingle.inputs = s.inputs := by unfold State.parseSingle; split <;> rfl
@[simp] theorem parseSingle_chan (k : Chan) : s.parseSingle.chan k = s.chan k := by cases k <;> simp [State.chan]
@[simp] theorem parseDual_parseOk : s.parseDual.parseOk = dualOk s := by
  rcases parseDual_cases s with ⟨h, e⟩ | ⟨h, e⟩ <;> simp [e, h]
@[simp] theorem parseSingle_parseOk : s.parseSingle.parseOk = singleOk s := by
  rcases parseSingle_cases s with ⟨h, e⟩ | ⟨h, e⟩ <;> simp [e, h]

/-! ### reset -/

/-- What a new level of the reset pin can do (R160). -/
theorem driveRst_cases (level : Bool) :
    (level = true ∧ s.driveRst level = s.setRst true) ∨
    (level = false ∧ s.rst = true ∧ s.driveRst level = State.resetWith s.cfg s.inputs) ∨
    (level = false ∧ s.rst = false ∧ s.driveRst level = s) := by
  cases level <;> cases h : s.rst <;> simp [State.driveRst, h]

@[simp] theorem resetWith_cfg (cfg : Config) (l : List Input) : (State.resetWith cfg l).cfg = cfg := rfl
@[simp] theorem resetWith_volt (cfg : Config) (l : List Input) : (State.resetWith cfg l).volt = Channel.reset := rfl
@[simp] theorem resetWith_curr (cfg : Config) (l : List Input) : (State.resetWith cfg l).curr = Channel.reset := rfl
@[simp] theorem resetWith_tick (cfg : Config) (l : List Input) : (State.resetWith cfg l).tick = 0 := rfl
@[simp] theorem resetWith_rd (cfg : Config) (l : List Input) : (State.resetWith cfg l).rd = ReadOut.reset := rfl
@[simp] theorem resetWith_crc (cfg : Config) (l : List Input) : (State.resetWith cfg l).crc = 0xFFFF#16 := rfl
@[simp] theorem resetWith_tx (cfg : Config) (l : List Input) : (State.resetWith cfg l).tx = Vector.replicate 8 0x00#8 := rfl
@[simp] theorem resetWith_txValid (cfg : Config) (l : List Input) : (State.resetWith cfg l).txValid = false := rfl
@[simp] theorem resetWith_rx (cfg : Config) (l : List Input) : (State.resetWith cfg l).rx = Vector.replicate 15 0x00#8 := rfl
@[simp] theorem resetWith_rxCnt (cfg : Config) (l : List Input) : (State.resetWith cfg l).rxCnt = 0#4 := rfl
@[simp] theorem resetWith_rxOvf (cfg : Config) (l : List Input) : (State.resetWith cfg l).rxOvf = false := rfl
@[simp] theorem resetWith_resV (cfg : Config) (l : List Input) : (State.resetWith cfg l).resV = 0#16 := rfl
@[simp] theorem resetWith_resI (cfg : Config) (l : List Input) : (State.resetWith cfg l).resI = 0#16 := rfl
@[simp] theorem resetWith_resCc (cfg : Config) (l : List Input) : (State.resetWith cfg l).resCc = false := rfl
@[simp] theorem resetWith_parseOk (cfg : Config) (l : List Input) : (State.resetWith cfg l).parseOk = false := rfl
@[simp] theorem resetWith_cmdErr (cfg : Config) (l : List Input) : (State.resetWith cfg l).cmdErr = false := rfl
@[simp] theorem resetWith_rst (cfg : Config) (l : List Input) : (State.resetWith cfg l).rst = false := rfl
@[simp] theorem resetWith_inputs (cfg : Config) (l : List Input) : (State.resetWith cfg l).inputs = l := rfl

end Sys2Proof.Machine
end

