-- ==== Sys2Proof/Laws/Exec.lean ====
section
/-!
SUPPORT. What `exec` answers for each constructor (never a fault, never a refusal), what no instruction touches,
and how a sequence of instructions unfolds.
-/

namespace Sys2Proof.Machine

variable (s : State)

@[simp] theorem exec_nop : exec .nop s = .next s := rfl
@[simp] theorem exec_qtick (p0 p1 : Pattern) : exec (.qtick p0 p1) s =
    .next (((s.setTick (nextTick s.cfg s.tick)).setChan .voltage
      (s.volt.tickWith s.cfg (nextTick s.cfg s.tick) p0)).setChan .current
      (s.curr.tickWith s.cfg (nextTick s.cfg s.tick) p1)) := rfl
@[simp] theorem exec_qseed (c : Chan) (v : Word) :
    exec (.qseed c v) s = .next (s.setChan c { s.chan c with sp := clampSp (v.toNat : Int) }) := rfl
@[simp] theorem exec_qmult (c : Chan) (m : Bool) :
    exec (.qmult c m) s = .next (s.setChan c { s.chan c with mul := m }) := rfl
@[simp] theorem exec_qread (c : Chan) : exec (.qread c) s = .next (s.setRd (s.snapshot c)) := rfl
@[simp] theorem exec_crcinit : exec .crcinit s = .next (s.setCrc crcInitial) := rfl
@[simp] theorem exec_crcbyte (b : Byte) : exec (.crcbyte b) s = .next (s.setCrc (crcStep s.crc b)) := rfl
@[simp] theorem exec_frmrd (a : Byte) (r n : Word) :
    exec (.frmrd a r n) s = .next (s.loadTx (requestFrame funcRead a r n)) := rfl
@[simp] theorem exec_frmwr (a : Byte) (r v : Word) :
    exec (.frmwr a r v) s = .next (s.loadTx (requestFrame funcWrite a r v)) := rfl
@[simp] theorem exec_rxclr : exec .rxclr s = .next s.clearRx := rfl
@[simp] theorem exec_rxpush (b : Byte) : exec (.rxpush b) s = .next (s.pushRx b) := rfl
@[simp] theorem exec_parse2 : exec .parse2 s = .next s.parseDual := rfl
@[simp] theorem exec_parse1 : exec .parse1 s = .next s.parseSingle := rfl
@[simp] theorem exec_mbReadReq (a : Byte) (r n : Word) :
    exec (.mbReadReq a r n) s = .next (s.loadTx (requestFrame funcRead a r n)) := rfl
@[simp] theorem exec_mbWriteReq (a : Byte) (r v : Word) :
    exec (.mbWriteReq a r v) s = .next (s.loadTx (requestFrame funcWrite a r v)) := rfl
@[simp] theorem exec_mbRead2Resp (a f n : Byte) (v i k : Word) : exec (.mbRead2Resp a f n v i k) s =
    .next (s.clearRx.pushAll (withTrailer (dualPayload a f n v i) k)).parseDual := rfl
@[simp] theorem exec_mbRead1Resp (a f n : Byte) (st k : Word) : exec (.mbRead1Resp a f n st k) s =
    .next (s.clearRx.pushAll (withTrailer (singlePayload a f n st) k)).parseSingle := rfl

/-- What `exec` can do, for every instruction: it answers a next state with the parameters, `cmd_err`, the reset pin
and the waiting inputs as before. -/
theorem exec_next (i : Instr) : ∃ t, exec i s = .next t ∧ t.cfg = s.cfg ∧ t.cmdErr = s.cmdErr ∧ t.rst = s.rst ∧
    t.inputs = s.inputs := by
  cases i <;> exact ⟨_, rfl, by simp⟩

/-- The same, for a next state already in hand. -/
theorem exec_rest {i : Instr} {t : State} (h : exec i s = .next t) :
    t.cfg = s.cfg ∧ t.cmdErr = s.cmdErr ∧ t.rst = s.rst ∧ t.inputs = s.inputs := by
  obtain ⟨u, hu, r⟩ := exec_next s i
  rw [hu] at h
  cases h
  exact r

@[simp] theorem execAll_nil : execAll [] s = .next s := rfl

/-- One instruction of a sequence. -/
theorem execAll_cons {i : Instr} {t : State} (is : List Instr) (h : exec i s = .next t) :
    execAll (i :: is) s = execAll is t := by
  simp [execAll, h]

/-- A sequence always completes, with the rest of the state as before. -/
theorem execAll_next (is : List Instr) : ∃ t, execAll is s = .next t ∧ t.cfg = s.cfg ∧ t.cmdErr = s.cmdErr ∧
    t.rst = s.rst ∧ t.inputs = s.inputs := by
  induction is generalizing s with
  | nil => exact ⟨s, rfl, rfl, rfl, rfl, rfl⟩
  | cons i is ih =>
    obtain ⟨t, h, a, b, c, d⟩ := exec_next s i
    obtain ⟨u, hu, a', b', c', d'⟩ := ih t
    exact ⟨u, by rw [execAll_cons s is h, hu], by rw [a', a], by rw [b', b], by rw [c', c], by rw [d', d]⟩

/-- A sequence in two halves. -/
theorem execAll_append {is js : List Instr} {t : State} (h : execAll is s = .next t) :
    execAll (is ++ js) s = execAll js t := by
  induction is generalizing s with
  | nil => cases h; rfl
  | cons i is ih =>
    obtain ⟨u, hu, -⟩ := exec_next s i
    rw [execAll_cons s is hu] at h
    rw [List.cons_append, execAll_cons s _ hu, ih u h]

/-- A run of RXPUSH is one `pushAll`. -/
theorem execAll_rxpush (bytes : List Byte) : execAll (bytes.map .rxpush) s = .next (s.pushAll bytes) := by
  induction bytes generalizing s with
  | nil => rfl
  | cons b bs ih => rw [List.map_cons, execAll_cons s _ (exec_rxpush s b), ih, pushAll_cons]

end Sys2Proof.Machine
end

