-- ==== Sys2Proof/Laws/Buffer.lean ====
section
/-!
SUPPORT. The two buffers: what a run of pushes leaves in the receive buffer, that every buffer operation keeps the
zeros beyond `rx_cnt` (10_state.md R22) and a loaded frame valid (R21), and the verdicts of the parsers byte by byte.
-/

namespace Sys2Proof.Machine

variable (s : State)

/-- `rxTailZero` byte by byte. -/
theorem rxTailZero_iff : rxTailZero s = true ↔ ∀ i (h : i < 15), s.rxCnt.toNat ≤ i → s.rx[i] = 0x00#8 := by
  simp only [rxTailZero, List.all_eq_true, beq_iff_eq]
  constructor
  · intro h i hi hc
    apply h
    rw [List.mem_drop_iff_getElem]
    exact ⟨i - s.rxCnt.toNat, by simp; omega, by simp [Nat.add_sub_cancel' hc]⟩
  · intro h x hx
    rw [List.mem_drop_iff_getElem] at hx
    obtain ⟨i, hi, rfl⟩ := hx
    simp only [Vector.getElem_toList]
    exact h _ (by simp at hi; omega) (by omega)

/-- RXCLR leaves zeros everywhere. -/
theorem rxTailZero_clearRx : rxTailZero s.clearRx = true := by
  rw [rxTailZero_iff]
  intro i hi _
  simp

/-- RXPUSH keeps the zeros beyond `rx_cnt`. -/
theorem rxTailZero_pushRx (b : Byte) (h : rxTailZero s = true) : rxTailZero (s.pushRx b) = true := by
  rw [rxTailZero_iff] at h ⊢
  rcases pushRx_cases s b with ⟨hc, e⟩ | ⟨hc, e⟩ <;> rw [e]
  · intro i hi hle
    have hn : (s.rxCnt + 1#4).toNat = s.rxCnt.toNat + 1 := by
      rw [BitVec.toNat_add]
      simp
      omega
    rw [hn] at hle
    simp only [Vector.getElem_setIfInBounds]
    rw [if_neg (by omega)]
    exact h i hi (by omega)
  · exact h

/-- A run of pushes keeps the zeros beyond `rx_cnt`. -/
theorem rxTailZero_pushAll (l : List Byte) (h : rxTailZero s = true) : rxTailZero (s.pushAll l) = true := by
  induction l generalizing s with
  | nil => exact h
  | cons b l ih => exact ih _ (rxTailZero_pushRx s b h)

/-- A state whose buffer and count are another's has its zeros. -/
theorem rxTailZero_congr {s t : State} (h : t.rx = s.rx) (hc : t.rxCnt = s.rxCnt) : rxTailZero t = rxTailZero s := by
  simp [rxTailZero, h, hc]

/-- The receive buffer after a run of pushes that starts with `done` bytes already in place. -/
theorem pushAll_contents (bytes done : List Byte)
    (hrx : ∀ i (h : i < 15), s.rx[i] = done.getD i 0x00#8) (hc : s.rxCnt.toNat = min done.length 15)
    (ho : s.rxOvf = decide (15 < done.length)) :
    (∀ i (h : i < 15), (s.pushAll bytes).rx[i] = (done ++ bytes).getD i 0x00#8) ∧
    (s.pushAll bytes).rxCnt.toNat = min (done ++ bytes).length 15 ∧
    (s.pushAll bytes).rxOvf = decide (15 < (done ++ bytes).length) := by
  induction bytes generalizing s done with
  | nil => simpa using ⟨hrx, hc, ho⟩
  | cons b l ih =>
    have := ih (s.pushRx b) (done ++ [b])
    rw [List.append_assoc, List.singleton_append] at this
    rw [pushAll_cons]
    apply this
    · rcases pushRx_cases s b with ⟨hn, e⟩ | ⟨hn, e⟩ <;> rw [e]
      · intro i hi
        simp only [Vector.getElem_setIfInBounds]
        split
        · next h =>
          have : i = done.length := by omega
          subst this
          simp
        · next h =>
          rw [hrx i hi]
          by_cases hl : i < done.length
          · simp [List.getElem?_append, hl]
          · have : done.length < i := by omega
            simp [List.getElem?_append, hl, List.getElem?_eq_none (show [b].length ≤ i - done.length by simp; omega)]
      · intro i hi
        rw [hrx i hi]
        have : i < done.length := by omega
        simp [List.getElem?_append, this]
    · rcases pushRx_cases s b with ⟨hn, e⟩ | ⟨hn, e⟩ <;> rw [e]
      · have : (s.rxCnt + 1#4).toNat = s.rxCnt.toNat + 1 := by
          rw [BitVec.toNat_add]
          simp
          omega
        rw [this]
        simp
        omega
      · simp only [List.length_append, List.length_singleton]
        omega
    · rcases pushRx_cases s b with ⟨hn, e⟩ | ⟨hn, e⟩ <;> rw [e]
      · simp only [ho, List.length_append, List.length_singleton]
        congr 1
        simp only [eq_iff_iff]
        omega
      · simp only [List.length_append, List.length_singleton]
        exact (decide_eq_true (by omega)).symm

/-- The receive buffer after RXCLR and a run of pushes (R114, R115). -/
theorem clearRx_pushAll_contents (bytes : List Byte) :
    (∀ i (h : i < 15), (s.clearRx.pushAll bytes).rx[i] = bytes.getD i 0x00#8) ∧
    (s.clearRx.pushAll bytes).rxCnt.toNat = min bytes.length 15 ∧
    (s.clearRx.pushAll bytes).rxOvf = decide (15 < bytes.length) := by
  have := pushAll_contents s.clearRx bytes [] (by simp) (by simp) (by simp)
  simpa using this

/-- The verdict of PARSE2, byte by byte (R116). -/
theorem dualOk_iff : dualOk s = true ↔ concat s.rx[8] s.rx[7]
    = crc16 [s.rx[0], s.rx[1], s.rx[2], s.rx[3], s.rx[4], s.rx[5], s.rx[6]] := by
  have h : rxPrefix s 7 = [s.rx[0], s.rx[1], s.rx[2], s.rx[3], s.rx[4], s.rx[5], s.rx[6]] := by
    apply List.ext_getElem
    · simp [rxPrefix]
    · intro i h1 h2
      simp only [rxPrefix, List.getElem_take, Vector.getElem_toList]
      have : i < 7 := by simpa using h2
      interval_cases i <;> rfl
  rw [dualOk, h, crcMatches, beq_iff_eq]

/-- The verdict of PARSE1, byte by byte (R117). -/
theorem singleOk_iff : singleOk s = true ↔ concat s.rx[6] s.rx[5]
    = crc16 [s.rx[0], s.rx[1], s.rx[2], s.rx[3], s.rx[4]] := by
  have h : rxPrefix s 5 = [s.rx[0], s.rx[1], s.rx[2], s.rx[3], s.rx[4]] := by
    apply List.ext_getElem
    · simp [rxPrefix]
    · intro i h1 h2
      simp only [rxPrefix, List.getElem_take, Vector.getElem_toList]
      have : i < 5 := by simpa using h2
      interval_cases i <;> rfl
  rw [singleOk, h, crcMatches, beq_iff_eq]

/-- A loaded request frame is its payload with its own CRC (R103). -/
theorem requestFrame_toList (func slave : Byte) (reg x : Word) :
    (requestFrame func slave reg x).toList = withCrc (requestPayload func slave reg x) := rfl

/-- Loading a request keeps `tx` valid (R21, R103). -/
theorem txInv_loadTx (func slave : Byte) (reg x : Word) (h : func = funcRead ∨ func = funcWrite) :
    txInv (s.loadTx (requestFrame func slave reg x)) = true := by
  have e : crcMatches (requestPayload func slave reg x) (loByte (crc16 (requestPayload func slave reg x)))
      (hiByte (crc16 (requestPayload func slave reg x))) = true := by
    simp [crcMatches]
  have hf : (func == funcRead || func == funcWrite) = true := by
    rcases h with rfl | rfl <;> decide
  have : txInv (s.loadTx (requestFrame func slave reg x)) = ((func == funcRead || func == funcWrite) &&
      crcMatches (requestPayload func slave reg x) (loByte (crc16 (requestPayload func slave reg x)))
      (hiByte (crc16 (requestPayload func slave reg x)))) := rfl
  rw [this, hf, e]
  rfl

end Sys2Proof.Machine
end

