-- ==== Sys2Proof/Laws/Congr.lean ====
section
/-!
SUPPORT. What the operations do not look at: the waiting inputs for all of them, the result registers for the
receive buffer, everything but `rx` for the verdicts of the parsers. From these, an instruction does the same
whatever waits behind it, and a parse done twice is a parse done once.
-/

namespace Sys2Proof.Machine

variable (s : State)

/-- Two states with the same decoder, framer and rest are the same state. -/
theorem state_ext {s t : State} (h1 : s.decoderPart = t.decoderPart) (h2 : s.framerPart = t.framerPart)
    (h3 : s.restPart = t.restPart) : s = t := by
  cases s
  cases t
  simp only [State.decoderPart, State.framerPart, State.restPart, DecoderPart.mk.injEq, FramerPart.mk.injEq,
    RestPart.mk.injEq] at h1 h2 h3
  simp [h1, h2, h3]

/-! ### The waiting inputs -/

theorem setChan_setInputs (c : Chan) (ch : Channel) (l : List Input) :
    (s.setInputs l).setChan c ch = (s.setChan c ch).setInputs l := by cases c <;> rfl

theorem pushRx_setInputs (b : Byte) (l : List Input) : (s.setInputs l).pushRx b = (s.pushRx b).setInputs l := by
  have h : rxHasRoom (s.setInputs l) = rxHasRoom s := rfl
  unfold State.pushRx
  rw [h]
  cases rxHasRoom s <;> rfl

theorem pushAll_setInputs (bytes : List Byte) (l : List Input) :
    (s.setInputs l).pushAll bytes = (s.pushAll bytes).setInputs l := by
  induction bytes generalizing s with
  | nil => rfl
  | cons b bs ih => rw [pushAll_cons, pushAll_cons, pushRx_setInputs, ih]

theorem parseDual_setInputs (l : List Input) : (s.setInputs l).parseDual = s.parseDual.setInputs l := by
  have h : dualOk (s.setInputs l) = dualOk s := rfl
  unfold State.parseDual
  rw [h]
  cases dualOk s <;> rfl

theorem parseSingle_setInputs (l : List Input) : (s.setInputs l).parseSingle = s.parseSingle.setInputs l := by
  have h : singleOk (s.setInputs l) = singleOk s := rfl
  unfold State.parseSingle
  rw [h]
  cases singleOk s <;> rfl

/-- An instruction does the same whatever inputs wait. -/
theorem exec_setInputs {s t : State} {i : Instr} (h : exec i s = .next t) (l : List Input) :
    exec i (s.setInputs l) = .next (t.setInputs l) := by
  cases i <;> simp only [exec_nop, exec_qtick, exec_qseed, exec_qmult, exec_qread, exec_crcinit, exec_crcbyte,
    exec_frmrd, exec_frmwr, exec_rxclr, exec_rxpush, exec_parse2, exec_parse1, exec_mbReadReq, exec_mbWriteReq,
    exec_mbRead2Resp, exec_mbRead1Resp, Host.Outcome.next.injEq] at h ⊢ <;> subst h
  case qseed => exact setChan_setInputs ..
  case qmult => exact setChan_setInputs ..
  case qread c => cases c <;> rfl
  case rxpush => exact pushRx_setInputs ..
  case parse2 => exact parseDual_setInputs ..
  case parse1 => exact parseSingle_setInputs ..
  case mbRead2Resp =>
    rw [← parseDual_setInputs, ← pushAll_setInputs]
    rfl
  case mbRead1Resp =>
    rw [← parseSingle_setInputs, ← pushAll_setInputs]
    rfl
  all_goals rfl

/-! ### The result registers -/

/-- Write the four result registers at once: what a parse can do. -/
def State.setResults (s : State) (v i : Word) (cc ok : Bool) : State :=
  { s with resV := v, resI := i, resCc := cc, parseOk := ok }

theorem pushRx_setResults (b : Byte) (v i : Word) (cc ok : Bool) :
    (s.setResults v i cc ok).pushRx b = (s.pushRx b).setResults v i cc ok := by
  have h : rxHasRoom (s.setResults v i cc ok) = rxHasRoom s := rfl
  unfold State.pushRx
  rw [h]
  cases rxHasRoom s <;> rfl

theorem pushAll_setResults (bytes : List Byte) (v i : Word) (cc ok : Bool) :
    (s.setResults v i cc ok).pushAll bytes = (s.pushAll bytes).setResults v i cc ok := by
  induction bytes generalizing s with
  | nil => rfl
  | cons b bs ih => rw [pushAll_cons, pushAll_cons, pushRx_setResults, ih]

/-- PARSE2 writes only result registers. -/
theorem parseDual_results : ∃ v i cc ok, s.parseDual = s.setResults v i cc ok := by
  rcases parseDual_cases s with ⟨-, e⟩ | ⟨-, e⟩ <;> rw [e]
  · exact ⟨_, _, s.resCc, _, rfl⟩
  · exact ⟨s.resV, s.resI, s.resCc, _, rfl⟩

/-- PARSE1 writes only result registers. -/
theorem parseSingle_results : ∃ v i cc ok, s.parseSingle = s.setResults v i cc ok := by
  rcases parseSingle_cases s with ⟨-, e⟩ | ⟨-, e⟩ <;> rw [e]
  · exact ⟨s.resV, s.resI, _, _, rfl⟩
  · exact ⟨s.resV, s.resI, s.resCc, _, rfl⟩

/-- Receiving a frame again, from whatever a parse left, gives the same buffer and keeps the results. -/
theorem receive_again (bytes : List Byte) (v i : Word) (cc ok : Bool) :
    ((s.clearRx.pushAll bytes).setResults v i cc ok).clearRx.pushAll bytes
      = (s.clearRx.pushAll bytes).setResults v i cc ok := by
  have e : ((s.clearRx.pushAll bytes).setResults v i cc ok).clearRx = s.clearRx.setResults v i cc ok := by
    apply state_ext <;> simp [State.decoderPart, State.framerPart, State.restPart, State.setResults, State.clearRx]
  rw [e, pushAll_setResults]

/-! ### The verdicts -/

theorem dualOk_congr {s t : State} (h : t.rx = s.rx) : dualOk t = dualOk s := by simp [dualOk, rxPrefix, h]

theorem singleOk_congr {s t : State} (h : t.rx = s.rx) : singleOk t = singleOk s := by simp [singleOk, rxPrefix, h]

/-- PARSE2 twice is PARSE2 once (R116). -/
theorem parseDual_parseDual : s.parseDual.parseDual = s.parseDual := by
  rcases parseDual_cases s with ⟨h, e⟩ | ⟨h, e⟩ <;> rw [e]
  · have : dualOk (s.setDual (concat s.rx[3] s.rx[4]) (concat s.rx[5] s.rx[6])) = true := h
    unfold State.parseDual
    rw [this]
    rfl
  · have : dualOk s.failParse = false := h
    unfold State.parseDual
    rw [this]
    rfl

/-- PARSE1 twice is PARSE1 once (R117). -/
theorem parseSingle_parseSingle : s.parseSingle.parseSingle = s.parseSingle := by
  rcases parseSingle_cases s with ⟨h, e⟩ | ⟨h, e⟩ <;> rw [e]
  · have : singleOk (s.setCc (ccDecode s.cfg s.rx[4])) = true := h
    unfold State.parseSingle
    rw [this]
    rfl
  · have : singleOk s.failParse = false := h
    unfold State.parseSingle
    rw [this]
    rfl

end Sys2Proof.Machine
end

