-- ==== Sys2Proof/Laws/Contract.lean ====
section
/-!
SUPPORT. What a command inside a read transaction can be, and which of them ends it: the lemmas every claim about
the contract needs, so that `readMove` is not unfolded again.
-/

namespace Sys2Proof.Machine

variable {dual : Bool} {stage : ReadStage} {s : State} {i : Instr}

/-- What one command of a read transaction can do to the host. -/
theorem readTransaction_cases {again : ReadStage → HostView} {finish : Bool → HostView} {v : HostView}
    (h : readTransaction dual stage s i again finish = some v) :
    (∃ st, readMove dual stage s i = some (.going st) ∧ v = again st) ∨
    (∃ ok, readMove dual stage s i = some (.done ok) ∧ v = finish ok) := by
  unfold readTransaction at h
  split at h
  · exact .inl ⟨_, ‹_›, (Option.some.inj h).symm⟩
  · exact .inr ⟨_, ‹_›, (Option.some.inj h).symm⟩
  · cases h

/-- A read transaction ends with its own parse, and with that parse's verdict (R151). -/
theorem readMove_done {ok : Bool} (h : readMove dual stage s i = some (.done ok)) :
    (dual = true ∧ i = .parse2 ∧ ok = dualOk s) ∨ (dual = false ∧ i = .parse1 ∧ ok = singleOk s) := by
  cases stage
  · simp [readMove] at h
  · simp [readMove] at h
  · cases i <;> cases dual <;> simp [readMove, receiveMove] at h <;> simp [h]

/-- The commands of a read transaction (R151). -/
theorem readMove_command {r : ReadMove} (h : readMove dual stage s i = some r) :
    i = .rxclr ∨ (∃ slave reg n, i = .frmrd slave reg n) ∨ (∃ b, i = .rxpush b) ∨ i = .parse2 ∨ i = .parse1 := by
  cases stage
  · simp only [readMove] at h
    split at h
    · exact .inl ‹_›
    · cases h
  · simp only [readMove] at h
    split at h
    · exact .inr (.inl ⟨_, _, _, by simpa [isReadRequest] using ‹isReadRequest dual i = true›⟩)
    · cases h
  · cases i <;> simp [readMove, receiveMove] at h <;> simp

/-- Before the end of a pass a command is a button's toggle, which changes only what was toggled, or is what the phase
allows. -/
theorem buttonOr_cases {v w : HostView} {other : Option HostView} (h : buttonOr v s i other = some w) :
    (∃ c, w = { v with toggled := c :: v.toggled }) ∨ other = some w := by
  unfold buttonOr at h
  split at h
  · split at h
    · exact .inl ⟨_, (Option.some.inj h).symm⟩
    · cases h
  · exact .inr h

/-- A toggle at the end of a pass stays there or begins the next pass. -/
theorem buttonAtEnd_phase (v : HostView) (c : Chan) :
    (buttonAtEnd v c).phase = v.phase ∨ (buttonAtEnd v c).phase = .sync .voltage := by
  unfold buttonAtEnd
  split
  · exact .inr rfl
  · exact .inl rfl

/-- A button's toggle leaves the shadows. -/
@[simp] theorem buttonAtEnd_shadow (v : HostView) (c d : Chan) : (buttonAtEnd v c).shadow d = v.shadow d := by
  unfold buttonAtEnd
  split <;> cases d <;> rfl

/-- What a QTICK can do to the host: nothing outside a write that waits, and inside one the hold alone changes. -/
theorem holdMove_cases (v : HostView) (p0 p1 : Pattern) :
    ((∀ c x hold, v.phase ≠ .write c x hold) ∧ holdMove v s p0 p1 = v) ∨
    ∃ c x hold, v.phase = .write c x hold ∧ holdMove v s p0 p1 =
      { v with phase := .write c x (if s.hasEvent c p0 p1 then quietTicks else hold - 1) } := by
  unfold holdMove
  split
  · exact .inr ⟨_, _, _, ‹_›, rfl⟩
  · exact .inl ⟨‹_›, rfl⟩

/-- A QTICK leaves the shadows. -/
@[simp] theorem holdMove_shadow (v : HostView) (p0 p1 : Pattern) (d : Chan) :
    (holdMove v s p0 p1).shadow d = v.shadow d := by
  rcases holdMove_cases (s := s) v p0 p1 with ⟨-, e⟩ | ⟨c, x, hold, -, e⟩ <;> rw [e]
  cases d <;> rfl

/-- The tick agent issues QTICK alone (R150). -/
theorem tickMove_cases {v w : HostView} (h : tickMove v s i = some w) :
    ∃ p0 p1, i = .qtick p0 p1 ∧ w = holdMove v s p0 p1 := by
  unfold tickMove at h
  split at h
  · exact ⟨_, _, rfl, (Option.some.inj h).symm⟩
  · cases h

end Sys2Proof.Machine
end

