-- ==== Sys2Proof/Laws/Decoder.lean ====
section
/-!
SUPPORT. The decoder's arithmetic and one channel's tick: what the clamp gives, what an allowed entry is, what
`tickWith` can do, and that it keeps a channel within its bounds.
-/

namespace Sys2Proof.Machine

/-- The clamped setpoint as an exact integer (R86). -/
theorem clampSp_toNat (v : Int) : ((clampSp v).toNat : Int) = min 5000 (max 0 v) := by
  have h : (clamp v 0 maxSp) = min 5000 (max 0 v) := rfl
  rw [clampSp, h, BitVec.toNat_ofInt]
  omega

/-- A clamped setpoint is within its range. -/
theorem clampSp_le (v : Int) : (clampSp v).toNat ≤ 5000 := by
  have := clampSp_toNat v
  omega

/-- Clamping a setpoint within its range changes nothing. -/
theorem clampSp_of_le (w : Word) (h : w.toNat ≤ 5000) : clampSp (w.toNat : Int) = w := by
  apply BitVec.eq_of_toNat_eq
  have := clampSp_toNat (w.toNat : Int)
  omega

/-- Seeding is idempotent (R88). -/
theorem clampSp_clampSp (v : Int) : clampSp ((clampSp v).toNat : Int) = clampSp v :=
  clampSp_of_le _ (clampSp_le v)

/-- The tick counter stays within TICK_W bits. -/
theorem nextTick_lt (cfg : Config) (t : Nat) : nextTick cfg t < 2 ^ cfg.tickW :=
  Nat.mod_lt _ (Nat.two_pow_pos _)

/-- Every entry of an allowed table meets R83. -/
theorem lookup_ok {t : QTable} (h : tableOk t = true) (q : BitVec 4) (p : Pattern) : entryOk (lookup t q p) = true := by
  simp only [tableOk, List.all_eq_true] at h
  exact h (t[q.toNat]'q.isLt) (Vector.mem_toList_iff.mpr (Vector.getElem_mem _)) _
    (Vector.mem_toList_iff.mpr (Vector.getElem_mem _))

/-- The two flags of an entry are the bits of its flag pair. -/
theorem entryFlags_bits (e : Byte) : (entryFlags e).getLsbD 0 = entryCw e ∧ (entryFlags e).getLsbD 1 = entryCcw e := by
  simp [entryFlags, entryCw, entryCcw]

/-- An allowed entry does not carry both flags. -/
theorem entryOk_flags {e : Byte} (h : entryOk e = true) : ¬ (entryCw e = true ∧ entryCcw e = true) := by
  revert h
  revert e
  decide +kernel

/-- What one channel's tick can do with an allowed table (R85, R86): no event, a clockwise event, or a
counter-clockwise one. -/
theorem tickWith_cases {cfg : Config} (h : tableOk cfg.qtable = true) (t : Nat) (p : Pattern) (ch : Channel) :
    let e := lookup cfg.qtable ch.qs p
    let looked : Channel := { ch with qs := entryNext e, evt := entryFlags e }
    (entryCw e = false ∧ entryCcw e = false ∧ ch.tickWith cfg t p = looked) ∨
    (entryCw e = true ∧ entryCcw e = false ∧ ch.tickWith cfg t p =
      { looked with sp := clampSp (ch.sp.toNat + stepSize ch.mul), ref := t }) ∨
    (entryCw e = false ∧ entryCcw e = true ∧ ch.tickWith cfg t p =
      { looked with sp := clampSp (ch.sp.toNat - stepSize ch.mul), ref := t }) := by
  have hf := entryOk_flags (lookup_ok h ch.qs p)
  simp only [Channel.tickWith, Channel.applyEvent, evtFlag]
  cases hc : entryCw (lookup cfg.qtable ch.qs p) <;> cases hd : entryCcw (lookup cfg.qtable ch.qs p)
  · simp
  · exact .inr (.inr ⟨rfl, rfl, by simp [Int.sub_eq_add_neg]⟩)
  · exact .inr (.inl ⟨rfl, rfl, by simp⟩)
  · exact absurd ⟨hc, hd⟩ hf

@[simp] theorem tickWith_qs (cfg : Config) (t : Nat) (p : Pattern) (ch : Channel) :
    (ch.tickWith cfg t p).qs = entryNext (lookup cfg.qtable ch.qs p) := by
  simp only [Channel.tickWith, Channel.applyEvent]
  split <;> split <;> rfl

@[simp] theorem tickWith_evt (cfg : Config) (t : Nat) (p : Pattern) (ch : Channel) :
    (ch.tickWith cfg t p).evt = entryFlags (lookup cfg.qtable ch.qs p) := by
  simp only [Channel.tickWith, Channel.applyEvent]
  split <;> split <;> rfl

@[simp] theorem tickWith_mul (cfg : Config) (t : Nat) (p : Pattern) (ch : Channel) :
    (ch.tickWith cfg t p).mul = ch.mul := by
  simp only [Channel.tickWith, Channel.applyEvent]
  split <;> split <;> rfl

/-- An event stamps the reference with the new tick, and a QTICK without one keeps it, for any table (R85, R86). -/
theorem tickWith_ref (cfg : Config) (t : Nat) (p : Pattern) (ch : Channel) :
    (ch.tickWith cfg t p).ref = if entryFlags (lookup cfg.qtable ch.qs p) = 0b00#2 then ch.ref else t := by
  simp only [Channel.tickWith, Channel.applyEvent]
  generalize lookup cfg.qtable ch.qs p = e
  have h : entryFlags e = 0b00#2 ↔ entryCw e = false ∧ entryCcw e = false := by
    revert e
    decide +kernel
  rw [if_congr h rfl rfl]
  cases entryCw e <;> cases entryCcw e <;> rfl

/-- The parts of a channel's bounds. -/
theorem Channel.inv_iff (cfg : Config) (ch : Channel) :
    ch.inv cfg = true ↔ ch.sp.toNat ≤ 5000 ∧ ch.evt ≠ 0b11#2 ∧ ch.ref < 2 ^ cfg.tickW := by
  rw [show (5000 : Nat) = maxSp from rfl]
  simp only [Channel.inv, Bool.and_eq_true, decide_eq_true_eq, bne_iff_ne, and_assoc]

/-- A tick keeps a channel within its bounds. -/
theorem tickWith_inv {cfg : Config} (h : tableOk cfg.qtable = true) {t : Nat} (ht : t < 2 ^ cfg.tickW) (p : Pattern)
    {ch : Channel} (hi : ch.inv cfg = true) : (ch.tickWith cfg t p).inv cfg = true := by
  rw [Channel.inv_iff] at hi ⊢
  have he : entryFlags (lookup cfg.qtable ch.qs p) ≠ 0b11#2 := by
    have := lookup_ok h ch.qs p
    simp only [entryOk, Bool.and_eq_true, bne_iff_ne] at this
    exact this.1
  rcases tickWith_cases h t p ch with ⟨-, -, e⟩ | ⟨-, -, e⟩ | ⟨-, -, e⟩ <;> rw [e]
  · exact ⟨hi.1, he, hi.2.2⟩
  · exact ⟨clampSp_le _, he, ht⟩
  · exact ⟨clampSp_le _, he, ht⟩

/-- The quiet flag as a condition on the exact modular difference (R90). -/
theorem quietFlag_iff (cfg : Config) (tick ref : Nat) :
    quietFlag cfg tick ref = true ↔ ((tick : Int) - (ref : Int)) % (2 : Int) ^ cfg.tickW ≥ 400 := by
  have h := Int.emod_nonneg ((tick : Int) - (ref : Int)) (pow_ne_zero cfg.tickW (two_ne_zero (α := Int)))
  rw [quietFlag, decide_eq_true_iff, elapsed, quietTicks]
  push_cast
  omega

/-- The completion flags as the two bits ApplyEvent tests (R64, R65, R85). -/
theorem entryFlags_eq_iff (e : Byte) :
    (entryFlags e = 0b01#2 ↔ entryCw e = true ∧ entryCcw e = false) ∧
    (entryFlags e = 0b10#2 ↔ entryCw e = false ∧ entryCcw e = true) ∧
    (entryFlags e = 0b00#2 ↔ entryCw e = false ∧ entryCcw e = false) := by
  revert e
  decide +kernel

/-- The read-out latch's bound as propositions. -/
theorem ReadOut.inv_iff (cfg : Config) (rd : ReadOut) : rd.inv cfg = true ↔ rd.sp.toNat ≤ 5000 ∧
    rd.ref < 2 ^ cfg.tickW ∧ rd.tick < 2 ^ cfg.tickW ∧ rd.quiet = quietFlag cfg rd.tick rd.ref := by
  rw [show (5000 : Nat) = maxSp from rfl]
  simp only [ReadOut.inv, Bool.and_eq_true, decide_eq_true_eq, beq_iff_eq, and_assoc]

end Sys2Proof.Machine
end

