-- ==== Sys2Proof/Laws/Encoding.lean ====
section
/-!
SUPPORT. The fields of a command word, built and read back, and the codecs of the operands.
-/

namespace Sys2Proof

open Machine

/-- A command word as a number (R60). -/
theorem commandWord_toNat (op a : Byte) (h l : Word) :
    (commandWord op a h l).toNat = op.toNat * 2 ^ 40 + a.toNat * 2 ^ 32 + h.toNat * 2 ^ 16 + l.toNat := by
  have e1 : (op ++ a).toNat = op.toNat * 2 ^ 8 + a.toNat := by
    rw [BitVec.toNat_append, Nat.shiftLeft_eq, Nat.mul_comm, ← Nat.two_pow_add_eq_or_of_lt a.isLt, Nat.mul_comm]
  have e2 : (op ++ a ++ h).toNat = (op ++ a).toNat * 2 ^ 16 + h.toNat := by
    rw [BitVec.toNat_append, Nat.shiftLeft_eq, Nat.mul_comm, ← Nat.two_pow_add_eq_or_of_lt h.isLt, Nat.mul_comm]
  have e3 : (op ++ a ++ h ++ l).toNat = (op ++ a ++ h).toNat * 2 ^ 16 + l.toNat := by
    rw [BitVec.toNat_append, Nat.shiftLeft_eq, Nat.mul_comm, ← Nat.two_pow_add_eq_or_of_lt l.isLt, Nat.mul_comm]
  rw [commandWord, e3, e2, e1]
  ring

theorem opField_toNat (w : CmdWord) : (opField w).toNat = w.toNat / 2 ^ 40 := by
  have := w.isLt
  simp only [opField, BitVec.extractLsb'_toNat, Nat.shiftRight_eq_div_pow]
  omega

theorem aField_toNat (w : CmdWord) : (aField w).toNat = w.toNat / 2 ^ 32 % 2 ^ 8 := by
  simp only [aField, BitVec.extractLsb'_toNat, Nat.shiftRight_eq_div_pow]

theorem hField_toNat (w : CmdWord) : (hField w).toNat = w.toNat / 2 ^ 16 % 2 ^ 16 := by
  simp only [hField, BitVec.extractLsb'_toNat, Nat.shiftRight_eq_div_pow]

theorem lField_toNat (w : CmdWord) : (lField w).toNat = w.toNat % 2 ^ 16 := by
  simp [lField, BitVec.extractLsb'_toNat]

@[simp] theorem opField_commandWord (op a : Byte) (h l : Word) : opField (commandWord op a h l) = op := by
  apply BitVec.eq_of_toNat_eq
  have := a.isLt
  have := h.isLt
  have := l.isLt
  rw [opField_toNat, commandWord_toNat]
  omega

@[simp] theorem aField_commandWord (op a : Byte) (h l : Word) : aField (commandWord op a h l) = a := by
  apply BitVec.eq_of_toNat_eq
  have := a.isLt
  have := h.isLt
  have := l.isLt
  rw [aField_toNat, commandWord_toNat]
  omega

@[simp] theorem hField_commandWord (op a : Byte) (h l : Word) : hField (commandWord op a h l) = h := by
  apply BitVec.eq_of_toNat_eq
  have := h.isLt
  have := l.isLt
  rw [hField_toNat, commandWord_toNat]
  omega

@[simp] theorem lField_commandWord (op a : Byte) (h l : Word) : lField (commandWord op a h l) = l := by
  apply BitVec.eq_of_toNat_eq
  have := l.isLt
  rw [lField_toNat, commandWord_toNat]
  omega

/-- A command word is its four fields: no bit lies outside them. -/
@[simp] theorem commandWord_fields (w : CmdWord) : commandWord (opField w) (aField w) (hField w) (lField w) = w := by
  apply BitVec.eq_of_toNat_eq
  rw [commandWord_toNat, opField_toNat, aField_toNat, hField_toNat, lField_toNat]
  omega

/-- Decoding a word built from fields. -/
theorem decodeCommand_commandWord (op a : Byte) (h l : Word) :
    decodeCommand (commandWord op a h l) = decodeFields op a h l := by
  simp [decodeCommand]

@[simp] theorem chanOfBit_chanBit (c : Chan) : chanOfBit (chanBit c) = c := by cases c <;> rfl

@[simp] theorem chanBit_chanOfBit (b : BitVec 1) : chanBit (chanOfBit b) = b := by
  revert b
  decide

/-- The channel operand reads back as the channel, with its reserved bits zero. -/
theorem chanOperand_reads (c : Chan) :
    (chanOperand c).extractLsb' 1 7 = 0#7 ∧ chanOfBit ((chanOperand c).extractLsb' 0 1) = c := by
  cases c <;> decide

/-- A byte with its channel operand's reserved bits zero is the operand of the channel it names. -/
theorem chanOperand_of_reserved (a : Byte) (h : a.extractLsb' 1 7 = 0#7) :
    chanOperand (chanOfBit (a.extractLsb' 0 1)) = a := by
  revert a
  decide +kernel

/-- The operation codes of the table are distinct. -/
theorem opRows_ops (a : Byte) (h l : Word) : ((opRows a h l).map OpRow.op) =
    [0x00#8, 0x01#8, 0x02#8, 0x03#8, 0x04#8, 0x10#8, 0x11#8, 0x20#8, 0x21#8, 0x28#8, 0x29#8, 0x2A#8, 0x2B#8] := rfl

/-- In a list of rows with distinct operation codes, the row found is the row there is. -/
theorem find_row {rows : List OpRow} (hd : (rows.map OpRow.op).Nodup) {op : Byte} {r : OpRow} :
    rows.find? (fun x => x.op == op) = some r ↔ r ∈ rows ∧ r.op = op := by
  induction rows with
  | nil => simp
  | cons x xs ih =>
    rw [List.map_cons, List.nodup_cons] at hd
    rw [List.find?_cons]
    cases hx : x.op == op
    · rw [ih hd.2]
      have hne : x.op ≠ op := by simpa using hx
      constructor
      · rintro ⟨hm, ho⟩
        exact ⟨List.mem_cons_of_mem _ hm, ho⟩
      · rintro ⟨hm, ho⟩
        rcases List.mem_cons.mp hm with rfl | hm
        · exact absurd ho hne
        · exact ⟨hm, ho⟩
    · have he : x.op = op := by simpa using hx
      constructor
      · rintro h
        cases h
        exact ⟨List.mem_cons_self .., he⟩
      · rintro ⟨hm, ho⟩
        rcases List.mem_cons.mp hm with rfl | hm
        · rfl
        · exact absurd (List.mem_map_of_mem (f := OpRow.op) hm) (by rw [ho, ← he]; exact hd.1)

/-- What decodes: the rows of R61 whose operation code it is and whose reserved bits are zero. -/
theorem decodeFields_ok {op a : Byte} {h l : Word} {i : Instr} :
    decodeFields op a h l = .ok i ↔ ∃ r ∈ opRows a h l, r.op = op ∧ r.clear = true ∧ r.instr = i := by
  have hd : ((opRows a h l).map OpRow.op).Nodup := by
    rw [opRows_ops]
    decide
  unfold decodeFields
  constructor
  · intro e
    cases hf : (opRows a h l).find? (fun r => r.op == op) with
    | none => simp [hf] at e
    | some r =>
      have hr := (find_row hd).mp hf
      cases hz : r.clear
      · simp [hf, hz] at e
      · exact ⟨r, hr.1, hr.2, hz, by simpa [hf, hz] using e⟩
  · rintro ⟨r, hm, ho, hz, rfl⟩
    rw [(find_row hd).mpr ⟨hm, ho⟩]
    simp [hz]

/-- A valid trailer is the payload's own CRC. -/
theorem crcMatches_iff (payload : List Byte) (lo hi : Byte) :
    crcMatches payload lo hi = true ↔ concat hi lo = crc16 payload := by
  simp [crcMatches]

/-- A payload's own trailer matches (R103, R105). -/
@[simp] theorem crcMatches_own (payload : List Byte) :
    crcMatches payload (loByte (crc16 payload)) (hiByte (crc16 payload)) = true := by
  simp [crcMatches]

/-- A command word masked by another, field by field. -/
theorem commandWord_and (op a op' a' : Byte) (h l h' l' : Word) : commandWord op a h l &&& commandWord op' a' h' l'
    = commandWord (op &&& op') (a &&& a') (h &&& h') (l &&& l') := by
  simp only [commandWord, ← BitVec.and_append]

/-- Command words are equal when their fields are. -/
theorem commandWord_inj {op a op' a' : Byte} {h l h' l' : Word} :
    commandWord op a h l = commandWord op' a' h' l' ↔ op = op' ∧ a = a' ∧ h = h' ∧ l = l' := by
  constructor
  · intro e
    have e1 := congrArg opField e
    have e2 := congrArg aField e
    have e3 := congrArg hField e
    have e4 := congrArg lField e
    simp only [opField_commandWord, aField_commandWord, hField_commandWord, lField_commandWord] at e1 e2 e3 e4
    exact ⟨e1, e2, e3, e4⟩
  · rintro ⟨rfl, rfl, rfl, rfl⟩
    rfl

/-- A request frame with its own CRC decodes by its function code (R67, R68). -/
theorem decodeFrame_request (f s : Byte) (r x : Word) : decodeFrame (withCrc (requestPayload f s r x)) =
    if f = funcRead then .ok (.mbReadReq s r x)
    else if f = funcWrite then .ok (.mbWriteReq s r x)
    else .error .requestFunction := by
  have h := crcMatches_own [s, f, hiByte r, loByte r, hiByte x, loByte x]
  simp only [withCrc, withTrailer, requestPayload, List.cons_append, List.nil_append, decodeFrame, h, concat_hi_lo]
  rfl

end Sys2Proof
end

