-- ==== Sys2Proof/Laws/PerInstr.lean ====
section
/-!
SUPPORT. A statement about every instruction as syntax, made constructor by constructor: its encoding has the form
its row of the opcode table gives it. A command word selects its own row of the match and mask table (R62), a
wire frame has its row's number of bytes (R67 to R70).
-/

namespace Sys2Proof.Laws.RowForm

open Sys2Proof Sys2Proof.Machine

/-- The bytes of each wire frame of the opcode table (30_encoding.md R67 to R70). -/
def frameLengths : List (String × Nat) :=
  [("MB_READ_REQ", 8), ("MB_WRITE_REQ", 8), ("MB_READ2_RESP", 9), ("MB_READ1_RESP", 7)]

/-- The encoding has the form of the instruction's row. -/
def Statement (i : Instr) : Prop :=
  match encode i with
  | .command w => ∃ r ∈ matchTable, r.mnemonic = mnemonicOf i ∧ w &&& r.mask = r.pattern
  | .frame bytes => (mnemonicOf i, bytes.length) ∈ frameLengths

/-- A word selects a row when each of its fields does. -/
theorem fields_select {op a : Byte} {h l : Word} {m p : CmdWord} (e1 : op &&& opField m = opField p)
    (e2 : a &&& aField m = aField p) (e3 : h &&& hField m = hField p) (e4 : l &&& lField m = lField p) :
    commandWord op a h l &&& m = p := by
  rw [← commandWord_fields m, commandWord_and, e1, e2, e3, e4, commandWord_fields]

/-- The bits of a channel operand the tables hold constant are zero. -/
theorem chanOperand_masked (c : Chan) : chanOperand c &&& 0xFE#8 = 0x00#8 := by cases c <;> rfl

/-- The constant bits of QTICK's patterns operand. -/
theorem qtick_masked (p0 p1 : Pattern) : (0#4 ++ p1 ++ p0 : Byte) &&& 0xF0#8 = 0x00#8 := by
  revert p0 p1
  decide

/-- The constant bits of QMULT's select operand. -/
theorem select_masked (m : Bool) : (0#15 ++ BitVec.ofBool m : Word) &&& 0xFFFE#16 = 0x0000#16 := by cases m <;> rfl

theorem nop : Statement .nop := by
  refine ⟨matchTable[0], List.getElem_mem _, rfl, ?_⟩
  exact rfl

theorem qtick (p0 p1 : Pattern) : Statement (.qtick p0 p1) := by
  refine ⟨matchTable[1], List.getElem_mem _, rfl, ?_⟩
  exact fields_select rfl (qtick_masked p0 p1) rfl rfl

theorem qseed (c : Chan) (v : Word) : Statement (.qseed c v) := by
  refine ⟨matchTable[2], List.getElem_mem _, rfl, ?_⟩
  exact fields_select rfl (chanOperand_masked c) rfl BitVec.and_zero

theorem qmult (c : Chan) (m : Bool) : Statement (.qmult c m) := by
  refine ⟨matchTable[3], List.getElem_mem _, rfl, ?_⟩
  exact fields_select rfl (chanOperand_masked c) rfl (select_masked m)

theorem qread (c : Chan) : Statement (.qread c) := by
  refine ⟨matchTable[4], List.getElem_mem _, rfl, ?_⟩
  exact fields_select rfl (chanOperand_masked c) rfl rfl

theorem crcinit : Statement .crcinit := by
  refine ⟨matchTable[5], List.getElem_mem _, rfl, ?_⟩
  exact rfl

theorem crcbyte (b : Byte) : Statement (.crcbyte b) := by
  refine ⟨matchTable[6], List.getElem_mem _, rfl, ?_⟩
  exact fields_select rfl BitVec.and_zero rfl rfl

theorem frmrd (slave : Byte) (reg count : Word) : Statement (.frmrd slave reg count) := by
  refine ⟨matchTable[7], List.getElem_mem _, rfl, ?_⟩
  exact fields_select rfl BitVec.and_zero BitVec.and_zero BitVec.and_zero

theorem frmwr (slave : Byte) (reg value : Word) : Statement (.frmwr slave reg value) := by
  refine ⟨matchTable[8], List.getElem_mem _, rfl, ?_⟩
  exact fields_select rfl BitVec.and_zero BitVec.and_zero BitVec.and_zero

theorem rxclr : Statement .rxclr := by
  refine ⟨matchTable[9], List.getElem_mem _, rfl, ?_⟩
  exact rfl

theorem rxpush (b : Byte) : Statement (.rxpush b) := by
  refine ⟨matchTable[10], List.getElem_mem _, rfl, ?_⟩
  exact fields_select rfl BitVec.and_zero rfl rfl

theorem parse2 : Statement .parse2 := by
  refine ⟨matchTable[11], List.getElem_mem _, rfl, ?_⟩
  exact rfl

theorem parse1 : Statement .parse1 := by
  refine ⟨matchTable[12], List.getElem_mem _, rfl, ?_⟩
  exact rfl

theorem mbReadReq (slave : Byte) (reg count : Word) : Statement (.mbReadReq slave reg count) :=
  List.getElem_mem (l := frameLengths) (n := 0) (by decide)

theorem mbWriteReq (slave : Byte) (reg value : Word) : Statement (.mbWriteReq slave reg value) :=
  List.getElem_mem (l := frameLengths) (n := 1) (by decide)

theorem mbRead2Resp (slave func count : Byte) (v i crc : Word) : Statement (.mbRead2Resp slave func count v i crc) :=
  List.getElem_mem (l := frameLengths) (n := 2) (by decide)

theorem mbRead1Resp (slave func count : Byte) (status crc : Word) :
    Statement (.mbRead1Resp slave func count status crc) :=
  List.getElem_mem (l := frameLengths) (n := 3) (by decide)

end Sys2Proof.Laws.RowForm
end

