-- ==== Sys2Proof/Laws/Step.lean ====
section
/-!
SUPPORT. What one step can do, said once: from it the invariants and the whole-machine rules are case splits.
-/

namespace Sys2Proof.Machine

variable (s : State)

/-- The step unfolded: the table is checked, then the oldest input is taken. -/
theorem step_of_table (h : tableOk s.cfg.qtable = true) :
    step s = match s.inputs with
      | [] => .next s
      | inp :: rest => (s.setInputs rest).takeInput inp := by
  exact if_pos h

/-- A packet offered while rst is asserted is dropped (R160, log 5). -/
theorem takeInput_offer_reset (a : Agent) (p : Packet) (h : s.rst = true) : s.takeInput (.offer a p) = .next s := by
  simp [State.takeInput, h]

/-- A packet that decodes is executed. -/
theorem takeInput_offer_ok (a : Agent) {p : Packet} {i : Instr} (h : s.rst = false) (hd : decode p = .ok i) :
    s.takeInput (.offer a p) = exec i s := by
  simp [State.takeInput, h, State.takePacket, hd]

/-- An illegal command word is CmdError (R141). -/
theorem takeInput_offer_illegal (a : Agent) {w : CmdWord} {e : DecodeError} (h : s.rst = false)
    (hd : decode (.command w) = .error e) : s.takeInput (.offer a (.command w)) = .next s.cmdError := by
  simp [State.takeInput, h, State.takePacket, hd]

/-- Everything the taking of an input can do when it answers a next state. -/
theorem takeInput_cases {inp : Input} {t : State} (h : s.takeInput inp = .next t) :
    (∃ level, inp = .rst level ∧ t = s.driveRst level) ∨
    (∃ a p, inp = .offer a p ∧ s.rst = true ∧ t = s) ∨
    (∃ a p i, inp = .offer a p ∧ s.rst = false ∧ decode p = .ok i ∧ exec i s = .next t) ∨
    (∃ a w e, inp = .offer a (.command w) ∧ s.rst = false ∧ decode (.command w) = .error e ∧ t = s.cmdError) := by
  cases inp with
  | rst level => exact .inl ⟨level, rfl, by simpa [State.takeInput] using h.symm⟩
  | offer a p =>
    right
    cases hr : s.rst
    · right
      cases hd : decode p with
      | ok i => exact .inl ⟨a, p, i, rfl, rfl, hd, by rwa [takeInput_offer_ok s a hr hd] at h⟩
      | error e =>
        cases p with
        | command w =>
          rw [takeInput_offer_illegal s a hr hd] at h
          exact .inr ⟨a, w, e, rfl, rfl, hd, by cases h; rfl⟩
        | frame b => simp [State.takeInput, hr, State.takePacket, hd] at h
    · rw [takeInput_offer_reset s a p hr] at h
      exact .inl ⟨a, p, rfl, rfl, by cases h; rfl⟩

/-- Everything a step can do when it answers a next state: the table is allowed, and the block waits, or the oldest
input changes the reset pin, is dropped, is executed, or is an illegal command word. -/
theorem step_cases {t : State} (h : step s = .next t) :
    tableOk s.cfg.qtable = true ∧
    ((s.inputs = [] ∧ t = s) ∨
     ∃ inp rest, s.inputs = inp :: rest ∧ (s.setInputs rest).takeInput inp = .next t) := by
  cases hk : tableOk s.cfg.qtable
  · simp [step, State.advance, hk] at h
  · refine ⟨rfl, ?_⟩
    rw [step_of_table s hk] at h
    cases hi : s.inputs with
    | nil =>
      rw [hi] at h
      exact .inl ⟨rfl, by cases h; rfl⟩
    | cons inp rest =>
      rw [hi] at h
      exact .inr ⟨inp, rest, rfl, h⟩

/-- One step of a run. -/
theorem core_run_next (n : Nat) {s t : State} (h : step s = .next t) :
    Host.Core.run core (n + 1) s = Host.Core.run core n t := by
  have e : core.step s = .next t := h
  simp only [Host.Core.run]
  rw [e]

end Sys2Proof.Machine
end

