-- ==== Sys2Proof/Tests/Slice0.lean ====
section
/-!
SUPPORT. The model's own tests. Expected values are those of spec/95_test_vectors.md (Q, CR, F, P) or worked out
from the rule named; words are written out from the encoding of 30_encoding.md R61 and R67 to R70. The last part
shows, for each statement with hypotheses, a concrete case that meets them.
-/

namespace Sys2Proof.Tests

open Sys2Proof Sys2Proof.Machine

/-- The block after reset with default parameters and the given inputs waiting. -/
def after (inputs : List Input) : State := State.resetWith Config.default inputs

/-- An outcome is a next state with a property. -/
def nextIs (o : Host.Outcome State Fault Refusal) (p : State → Bool) : Bool :=
  match o with
  | .next t => p t
  | _ => false

/-- An instruction executed from reset. -/
def execIs (i : Instr) (p : State → Bool) : Bool := nextIs (exec i (after [])) p

/-- A command word offered by the host, taken in one step from reset. -/
def stepIs (w : CmdWord) (p : State → Bool) : Bool := nextIs (step (after [.offer .host (.command w)])) p

/-- One channel in state `q` with setpoint `sp` and select `mul`. -/
def channel (q : BitVec 4) (sp : Word) (mul : Bool) : Channel := { qs := q, evt := 0b00#2, sp := sp, ref := 0, mul := mul }

/-- The block with channel 0 as given and the tick counter at `t`. -/
def ticking (ch : Channel) (t : Nat) : State := { after [] with volt := ch, tick := t }

/-- The block with bytes received into a cleared buffer and results 7, 8 and 1 from before (95 section 2.3). -/
def received (bytes : List Byte) : State :=
  { (after []).pushAll bytes with resV := 7#16, resI := 8#16, resCc := true }

/-- The dual response of F7: 1200 and 500. -/
def dualFrame : List Byte := [0x01#8, 0x03#8, 0x04#8, 0x04#8, 0xB0#8, 0x01#8, 0xF4#8, 0xFA#8, 0xF3#8]

/-- The CC response of F13: status 1. -/
def ccFrame : List Byte := [0x01#8, 0x03#8, 0x02#8, 0x00#8, 0x01#8, 0x79#8, 0x84#8]

/-! ### Well-formedness -/

theorem test_wellFormed_dual : WellFormed (.mbRead2Resp 0x01#8 0x03#8 0x04#8 1200#16 500#16 0xF3FA#16) = true := by
  decide +kernel

theorem test_illFormed_dual : WellFormed (.mbRead2Resp 0x01#8 0x03#8 0x04#8 1200#16 500#16 0xF2FA#16) = false := by
  decide +kernel

theorem test_wellFormed_single : WellFormed (.mbRead1Resp 0x01#8 0x03#8 0x02#8 1#16 0x8479#16) = true := by
  decide +kernel

theorem test_illFormed_single : WellFormed (.mbRead1Resp 0x01#8 0x03#8 0x02#8 1#16 0x8579#16) = false := by
  decide +kernel

/-! ### Decoding, by words written out field by field -/

theorem test_decode_nop : decode (.command (0b00000000#8 ++ 0b00000000#8 ++ 0#16 ++ 0#16)) = .ok .nop := rfl

theorem test_decode_qtick : decode (.command (0b00000001#8 ++ 0b0000_11_01#8 ++ 0#16 ++ 0#16))
    = .ok (.qtick 0b01#2 0b11#2) := rfl

theorem test_decode_qseed : decode (.command (0b00000010#8 ++ 0b0000000_1#8 ++ 0#16 ++ 0b0000000111110100#16))
    = .ok (.qseed .current 500#16) := rfl

theorem test_decode_qmult : decode (.command (0b00000011#8 ++ 0b0000000_1#8 ++ 0#16 ++ 0b000000000000000_1#16))
    = .ok (.qmult .current true) := rfl

theorem test_decode_qread : decode (.command (0b00000100#8 ++ 0b0000000_1#8 ++ 0#16 ++ 0#16))
    = .ok (.qread .current) := rfl

theorem test_decode_crcinit : decode (.command (0b00010000#8 ++ 0#8 ++ 0#16 ++ 0#16)) = .ok .crcinit := rfl

theorem test_decode_crcbyte : decode (.command (0b00010001#8 ++ 0b11000100#8 ++ 0#16 ++ 0#16))
    = .ok (.crcbyte 0xC4#8) := rfl

theorem test_decode_frmrd :
    decode (.command (0b00100000#8 ++ 0b00010001#8 ++ 0b0001001000110100#16 ++ 0b0000000000000010#16))
      = .ok (.frmrd 0x11#8 0x1234#16 2#16) := rfl

theorem test_decode_frmwr :
    decode (.command (0b00100001#8 ++ 0b00000001#8 ++ 0b0000000000000001#16 ++ 0b1111111100000000#16))
      = .ok (.frmwr 0x01#8 0x0001#16 0xFF00#16) := rfl

theorem test_decode_rxclr : decode (.command (0b00101000#8 ++ 0#8 ++ 0#16 ++ 0#16)) = .ok .rxclr := rfl

theorem test_decode_rxpush : decode (.command (0b00101001#8 ++ 0b10110000#8 ++ 0#16 ++ 0#16))
    = .ok (.rxpush 0xB0#8) := rfl

theorem test_decode_parse2 : decode (.command (0b00101010#8 ++ 0#8 ++ 0#16 ++ 0#16)) = .ok .parse2 := rfl

theorem test_decode_parse1 : decode (.command (0b00101011#8 ++ 0#8 ++ 0#16 ++ 0#16)) = .ok .parse1 := rfl

/-- F1's frame: slave, 0x03, register and count big-endian, CRC low byte first. -/
theorem test_decode_mbReadReq :
    (decode (.frame [0x01#8, 0x03#8, 0x00#8, 0x00#8, 0x00#8, 0x02#8, 0xC4#8, 0x0B#8])).toOption
      = some (.mbReadReq 0x01#8 0x0000#16 2#16) := by decide +kernel

/-- F3's frame. -/
theorem test_decode_mbWriteReq :
    (decode (.frame [0x01#8, 0x06#8, 0x00#8, 0x00#8, 0x04#8, 0xE2#8, 0x0B#8, 0x43#8])).toOption
      = some (.mbWriteReq 0x01#8 0x0000#16 1250#16) := by decide +kernel

theorem test_decode_mbRead2Resp :
    decode (.frame dualFrame) = .ok (.mbRead2Resp 0x01#8 0x03#8 0x04#8 1200#16 500#16 0xF3FA#16) := rfl

theorem test_decode_mbRead1Resp :
    decode (.frame ccFrame) = .ok (.mbRead1Resp 0x01#8 0x03#8 0x02#8 1#16 0x8479#16) := rfl

/-- A request frame with a wrong CRC, and one with another function code, are no rows of the table (R67, R68). -/
theorem test_decode_refused_frames :
    (decode (.frame [0x01#8, 0x03#8, 0x00#8, 0x00#8, 0x00#8, 0x02#8, 0xC4#8, 0x0C#8])).toOption = none ∧
    (decode (.frame (withCrc (requestPayload 0x10#8 0x01#8 0x0000#16 2#16)))).toOption = none := by decide +kernel

/-- The opcode table's numbering: a frame's first byte is its least significant (log 14). -/
theorem test_decodeTableWord : decodeTableWord 48 0x010D00000000 = some (.qtick 0b01#2 0b11#2) ∧
    decodeTableWord 56 0x84790100020301 = some (.mbRead1Resp 0x01#8 0x03#8 0x02#8 1#16 0x8479#16) ∧
    decodeTableWord 64 0x0BC4020000000301 = some (.mbReadReq 0x01#8 0x0000#16 2#16) ∧
    decodeTableWord 48 0x050000000000 = none := by decide +kernel

/-- A placed instruction is the one the next step runs (Q21). -/
theorem test_withFetchWord :
    nextIs (step (State.reset.withFetchWord 48 0x02010000FFFF)) (fun t => t.curr.sp == 5000#16 && t.inputs == [])
      = true := by decide

theorem test_withFetchWord_frame :
    nextIs (step (State.reset.withFetchWord 56 0x84790100020301)) (fun t => t.parseOk && t.resCc && t.rxCnt == 7#4)
      = true := by decide +kernel

/-! ### One step of each instruction -/

/-- Q25. -/
theorem test_nop : stepIs 0x0000_0000_0000#48 (fun t => t == after []) = true := by decide

/-- Q10: one event per channel in one tick. -/
theorem test_qtick_both :
    nextIs (exec (.qtick 0b11#2 0b11#2)
      { after [] with volt := channel 0x1#4 100#16 false, curr := channel 0x5#4 100#16 false })
      (fun t => t.volt == { qs := 0x0#4, evt := 0b01#2, sp := 101#16, ref := 1, mul := false } &&
        t.curr == { qs := 0x0#4, evt := 0b10#2, sp := 99#16, ref := 1, mul := false } && t.tick == 1) = true := by decide

/-- Q16: the tick counter wraps, and the reference takes the wrapped value. -/
theorem test_qtick_wrap :
    nextIs (exec (.qtick 0b11#2 0b11#2) (ticking (channel 0x1#4 0#16 false) 0xFFFFFFFF))
      (fun t => t.tick == 0 && t.volt.ref == 0 && t.volt.sp == 1#16) = true := by decide

/-- Q21. -/
theorem test_qseed : execIs (.qseed .current 0xFFFF#16)
    (fun t => t.curr == { Channel.reset with sp := 5000#16 } && t.volt == Channel.reset && t.tick == 0) = true := by
  decide

/-- Q22. -/
theorem test_qmult : execIs (.qmult .voltage true) (fun t => t.volt.mul && !t.curr.mul) = true := by decide

/-- Q23. -/
theorem test_qmult_illegal : stepIs 0x0300_0000_0002#48 (fun t => t.cmdErr && !t.volt.mul && !t.curr.mul) = true := by
  decide

/-- Q17, Q18. -/
theorem test_qread_quiet :
    nextIs (exec (.qread .voltage) (ticking { channel 0#4 0#16 false with ref := 20 } 419)) (fun t => !t.rd.quiet)
      = true ∧
    nextIs (exec (.qread .voltage) (ticking { channel 0#4 0#16 false with ref := 20 } 420)) (fun t => t.rd.quiet)
      = true := by decide

/-- Q19: across the wrap. -/
theorem test_qread_wrap :
    nextIs (exec (.qread .voltage) (ticking { channel 0#4 0#16 false with ref := 0xFFFFFFF0 } 0x180))
      (fun t => t.rd.quiet) = true ∧
    nextIs (exec (.qread .voltage) (ticking { channel 0#4 0#16 false with ref := 0xFFFFFFF0 } 0x17F))
      (fun t => !t.rd.quiet) = true := by decide

/-- CR1. -/
theorem test_crcinit : nextIs (exec .crcinit { after [] with crc := 0x1234#16 }) (fun t => t.crc == 0xFFFF#16) = true := by
  decide

/-- CR2, CR3. -/
theorem test_crcbyte : execIs (.crcbyte 0x00#8) (fun t => t.crc == 0x40BF#16) = true ∧
    execIs (.crcbyte 0x01#8) (fun t => t.crc == 0x807E#16) = true := by decide +kernel

/-- CR6: the published check value of CRC-16/MODBUS. -/
theorem test_crc_check_value :
    crc16 [0x31#8, 0x32#8, 0x33#8, 0x34#8, 0x35#8, 0x36#8, 0x37#8, 0x38#8, 0x39#8] = 0x4B37#16 := by decide +kernel

/-- F6. -/
theorem test_frmrd : execIs (.frmrd 0x11#8 0x1234#16 0#16) (fun t => t.txValid &&
    t.tx == #v[0x11#8, 0x03#8, 0x12#8, 0x34#8, 0x00#8, 0x00#8, 0x03#8, 0xEC#8]) = true := by decide +kernel

/-- F5: the high byte of 0xFF00 is 0xFF. -/
theorem test_frmwr : execIs (.frmwr 0x01#8 0x0001#16 0xFF00#16) (fun t => t.txValid &&
    t.tx == #v[0x01#8, 0x06#8, 0x00#8, 0x01#8, 0xFF#8, 0x00#8, 0x99#8, 0xFA#8]) = true := by decide +kernel

/-- F20. -/
theorem test_rxclr : nextIs (exec .rxclr { received (List.replicate 16 0xAA#8) with crc := 1#16 })
    (fun t => t.rx == Vector.replicate 15 0x00#8 && t.rxCnt == 0#4 && !t.rxOvf && t.crc == 1#16) = true := by decide

/-- F18: the fifteenth byte is stored. -/
theorem test_rxpush_last : nextIs (exec (.rxpush 0xAA#8) (received (List.replicate 14 0xAA#8)))
    (fun t => t.rx == Vector.replicate 15 0xAA#8 && t.rxCnt == 15#4 && !t.rxOvf) = true := by decide

/-- F19: the sixteenth is discarded. -/
theorem test_rxpush_full : nextIs (exec (.rxpush 0x0F#8) (received (List.replicate 15 0xAA#8)))
    (fun t => t.rx == Vector.replicate 15 0xAA#8 && t.rxCnt == 15#4 && t.rxOvf) = true := by decide

/-- F11: trailing bytes are not read. -/
theorem test_parse2 : nextIs (exec .parse2 (received (dualFrame ++ [0x55#8, 0x66#8])))
    (fun t => t.parseOk && t.resV == 1200#16 && t.resI == 500#16 && t.rxCnt == 11#4) = true := by decide +kernel

/-- F8: a wrong CRC keeps the results. -/
theorem test_parse2_fails : nextIs (exec .parse2 (received (dualFrame.set 8 0xF2#8)))
    (fun t => !t.parseOk && t.resV == 7#16 && t.resI == 8#16 && t.rxCnt == 9#4) = true := by decide +kernel

/-- F14, F15: status 0 clears the bit, status 2 sets it under the default CC_DECODE. -/
theorem test_parse1 :
    nextIs (exec .parse1 (received [0x01#8, 0x03#8, 0x02#8, 0x00#8, 0x00#8, 0xB8#8, 0x44#8]))
      (fun t => t.parseOk && !t.resCc) = true ∧
    nextIs (exec .parse1 (received [0x01#8, 0x03#8, 0x02#8, 0x00#8, 0x02#8, 0x39#8, 0x85#8]))
      (fun t => t.parseOk && t.resCc) = true := by decide +kernel

/-- P3, transaction 2: the CRC of another payload; the pin keeps its level. -/
theorem test_parse1_fails :
    nextIs (exec .parse1 (received [0x01#8, 0x03#8, 0x02#8, 0x00#8, 0x00#8, 0x79#8, 0x84#8]))
      (fun t => !t.parseOk && t.resCc && t.readPort .ccLed == 1) = true := by decide +kernel

/-- F2 as a frame row. -/
theorem test_mbReadReq : execIs (.mbReadReq 0x01#8 0x0008#16 1#16) (fun t => t.txValid &&
    t.tx == #v[0x01#8, 0x03#8, 0x00#8, 0x08#8, 0x00#8, 0x01#8, 0x05#8, 0xC8#8]) = true := by decide +kernel

/-- F4 as a frame row. -/
theorem test_mbWriteReq : execIs (.mbWriteReq 0x01#8 0x0001#16 500#16) (fun t => t.txValid &&
    t.tx == #v[0x01#8, 0x06#8, 0x00#8, 0x01#8, 0x01#8, 0xF4#8, 0xD8#8, 0x1D#8]) = true := by decide +kernel

/-- F12 as a frame row: the address is not checked. -/
theorem test_mbRead2Resp : execIs (.mbRead2Resp 0x11#8 0x03#8 0x04#8 1200#16 500#16 0x32EB#16)
    (fun t => t.parseOk && t.resV == 1200#16 && t.resI == 500#16 && t.rxCnt == 9#4) = true := by decide +kernel

/-- F16 as a frame row. -/
theorem test_mbRead1Resp : nextIs (exec (.mbRead1Resp 0x01#8 0x03#8 0x02#8 1#16 0x8579#16) (received []))
    (fun t => !t.parseOk && t.resCc && t.rxCnt == 7#4 && t.rx[4] == 0x01#8) = true := by decide +kernel

/-- P4, command 19: an unassigned operation code. -/
theorem test_illegal_op : stepIs 0x0500_0000_0000#48 (fun t => t == { after [] with cmdErr := true }) = true := by decide

/-- R160: a release of rst resets, an assertion alone does not, and a command offered between is dropped. -/
theorem test_rst :
    nextIs (step { after [.rst true] with crc := 1#16 }) (fun t => t.rst && t.crc == 1#16) = true ∧
    nextIs (step { after [.offer .host (.command 0#48)] with crc := 1#16, rst := true })
      (fun t => t.rst && t.crc == 1#16 && t.inputs == []) = true ∧
    nextIs (step { after [.rst false] with crc := 1#16, rst := true }) (fun t => t == after []) = true := by decide

/-- R72: an operand out of range is refused, and `x10` is the select 1. -/
theorem test_assembler : assembleLine "QTICK 1, 4" = none ∧ assembleLine "QSEED 2, 0" = none ∧
    assembleLine "QMULT 1, x10" = some [.command 0x0301_0000_0001#48] ∧
    assembleLine "RXFRAME 0x01, 0b11" = some [.command 0x2800_0000_0000#48, .command 0x2901_0000_0000#48,
      .command 0x2903_0000_0000#48] := by decide +kernel

theorem reset_inv : State.reset.inv = true := by decide +kernel

/-! ### The statements' hypotheses can be met -/

theorem meets_EncodeOfDecode : decode (.command 0x0401_0000_0000#48) = .ok (.qread .current) := rfl

theorem meets_DecodeFollowsMatchAndMask : decode (.command 0x0401_0000_0000#48) = .ok (.qread .current) ∧
    ∃ r ∈ matchTable, 0x0401_0000_0000#48 &&& r.mask = r.pattern := ⟨rfl, by decide⟩

theorem meets_StepRunsDecodedInstruction :
    let s := after [.offer .tickAgent (.command 0x010F_0000_0000#48), .rst true]
    tableOk s.cfg.qtable = true ∧ s.rst = false ∧
      s.inputs = .offer .tickAgent (.command 0x010F_0000_0000#48) :: [.rst true] ∧
      decode (.command 0x010F_0000_0000#48) = .ok (.qtick 0b11#2 0b11#2) := ⟨by decide, rfl, rfl, rfl⟩

theorem meets_StepWaitsForInput : tableOk (after []).cfg.qtable = true ∧ (after []).inputs = [] := ⟨by decide, rfl⟩

theorem meets_RunExecutesInAcceptedOrder :
    let l : List (Agent × Instr) := [(.host, .qread .voltage), (.tickAgent, .qtick 0b11#2 0b01#2), (.host, .parse2)]
    let s := after (l.map (fun x => offerOf x.1 x.2) ++ [.rst true])
    tableOk s.cfg.qtable = true ∧ s.rst = false ∧ s.inputs = l.map (fun x => offerOf x.1 x.2) ++ [.rst true] :=
  ⟨by decide, rfl, rfl⟩

theorem meets_IllegalWordOnlySetsCmdErr :
    let s := after [.offer .host (.command 0x0110_0000_0000#48)]
    tableOk s.cfg.qtable = true ∧ s.rst = false ∧ s.inputs = .offer .host (.command 0x0110_0000_0000#48) :: [] ∧
      ∀ r ∈ matchTable, 0x0110_0000_0000#48 &&& r.mask ≠ r.pattern := ⟨by decide, rfl, rfl, by decide⟩

theorem meets_StepCompletesOnEveryCommand :
    let s := after [.offer .host (.frame ccFrame)]
    tableOk s.cfg.qtable = true ∧ ∀ agent bytes rest, s.inputs = .offer agent (.frame bytes) :: rest → s.rst = false →
      ∃ i, decode (.frame bytes) = .ok i := by
  refine ⟨by decide, ?_⟩
  intro agent bytes rest h _
  cases h
  exact ⟨_, rfl⟩

theorem meets_OnlyResetClearsStickyFlags :
    let s := { after [.rst true] with cmdErr := true, txValid := true }
    step s = .next { after [] with cmdErr := true, txValid := true, rst := true } ∧ releasesReset s = false ∧
      s.cmdErr = true ∧ s.txValid = true := ⟨rfl, rfl, rfl, rfl⟩

theorem meets_ParametersNeverChange : step { after [.rst false] with rst := true, resCc := true } = .next (after []) :=
  rfl

theorem meets_ResetReleaseGivesResetValues :
    (let s := { after [.offer .host (.command 0x0201_0000_FFFF#48)] with rst := true, crc := 1#16 }
     tableOk s.cfg.qtable = true ∧ s.rst = true ∧
      s.inputs = .offer .host (.command 0x0201_0000_FFFF#48) :: []) ∧
    (let s := { after [.rst false] with rst := true, crc := 1#16 }
     tableOk s.cfg.qtable = true ∧ s.rst = true ∧ s.inputs = .rst false :: []) :=
  ⟨⟨by decide, rfl, rfl⟩, by decide, rfl, rfl⟩

theorem meets_ResetMeetsBlockInvariant :
    tableOk ({ tickW := 0, qtable := Vector.replicate 16 (Vector.replicate 4 0x2F#8), ccClear := [] } : Config).qtable
      = true := by decide

/-- A clockwise event at the upper clamp. -/
theorem meets_StepKeepsBlockInvariant :
    let s := { ticking (channel 0x1#4 5000#16 true) 41 with
      inputs := [.offer .tickAgent (.command 0x010F_0000_0000#48)] }
    s.inv = true ∧ nextIs (step s) (fun t => t.volt.evt == 0b01#2 && t.volt.sp == 5000#16) = true := by decide +kernel

/-- The upper bound is reached. -/
theorem meets_ReachableSetpointsInRange : ∃ s, Reachable s ∧ (s.chan .current).sp.toNat = 5000 :=
  ⟨_, .step _ _ (.reset Config.default [.offer .host (.command 0x0201_0000_FFFF#48)] (by decide)) rfl, by decide⟩

/-- Each register of the statement is changed by an instruction that may write it. -/
theorem meets_RegistersChangeOnlyByTheirWriters :
    nextIs (exec (.qtick 0b11#2 0b01#2) (ticking (channel 0x1#4 7#16 false) 41)) (fun t =>
      t.volt.qs != 0x1#4 && t.volt.evt != 0b00#2 && t.volt.ref != 0 && t.volt.sp != 7#16 && t.tick != 41) = true ∧
    execIs (.qseed .current 9#16) (fun t => t.curr.sp != 0#16) = true ∧
    execIs (.qmult .current true) (fun t => t.curr.mul) = true ∧
    execIs (.qread .current) (fun t => t.rd != ReadOut.reset) = true ∧
    execIs (.crcbyte 0#8) (fun t => t.crc != 0xFFFF#16) = true ∧
    execIs (.mbReadReq 0#8 0#16 0#16) (fun t => t.txValid && t.tx != Vector.replicate 8 0x00#8) = true ∧
    execIs (.rxpush 9#8) (fun t => t.rx != Vector.replicate 15 0x00#8 && t.rxCnt != 0#4) = true ∧
    nextIs (exec (.rxpush 9#8) (received (List.replicate 15 0xAA#8))) (fun t => t.rxOvf) = true ∧
    nextIs (exec .parse2 (received dualFrame)) (fun t => t.resV != 7#16 && t.resI != 8#16 && t.parseOk) = true ∧
    execIs (.mbRead1Resp 0x01#8 0x03#8 0x02#8 1#16 0x8479#16) (fun t => t.resCc && t.parseOk) = true := by
  decide +kernel

theorem meets_OtherCommandsAreIdempotent : repeatMatters (.qread .current) = false ∧
    exec (.qread .current) (after []) = .next ((after []).setRd ((after []).snapshot .current)) := ⟨rfl, rfl⟩

/-- A port of TICK_W bits at its largest value. -/
theorem meets_PortValuesFitTheirWidths : (ticking (channel 0x6#4 5000#16 true) 0xFFFFFFFF).inv = true ∧
    (ticking (channel 0x6#4 5000#16 true) 0xFFFFFFFF).readPort .tick + 1 = 2 ^ Port.tick.width Config.default := by
  decide +kernel

theorem meets_NopChangesNothing : (0x0000_0000_0001#48).extractLsb' 40 8 = 0x00#8 ∧ 0x0000_0000_0001#48 ≠ 0#48 := by
  decide

/-- P1 to P3 of R83 have cases, and a table with both flags in one entry is refused. -/
theorem meets_TransitionTableInvariants :
    (0x6#4, 0b00#2) ∈ restPatterns ∧ (lookup defaultTable 0x1#4 0b11#2).extractLsb' 4 2 ≠ 0#2 ∧
    tableOk ({ after [] with cfg := { Config.default with
      qtable := Vector.replicate 16 (Vector.replicate 4 0x30#8) } } : State).cfg.qtable = false := by decide

/-- A clockwise, a counter-clockwise and an eventless entry. -/
theorem meets_QtickResult : tableOk (after []).cfg.qtable = true ∧
    (lookup defaultTable 0x1#4 0b11#2).getLsbD 4 = true ∧ (lookup defaultTable 0x5#4 0b11#2).getLsbD 5 = true ∧
    (lookup defaultTable 0x0#4 0b01#2).getLsbD 4 = false ∧ (lookup defaultTable 0x0#4 0b01#2).getLsbD 5 = false := by
  decide

/-- A state for each corner row: the encoder one pattern before the row's event. -/
theorem meets_ApplyEventCornerCases :
    ∀ row ∈ [(4995#16, true, true), (5000#16, false, true), (3#16, true, false), (0#16, false, false),
        (1200#16, true, true), (1200#16, false, false)],
      let s := ticking (channel (if row.2.2 then 0x1#4 else 0x5#4) row.1 row.2.1) 41
      tableOk s.cfg.qtable = true ∧ (s.chan .voltage).sp = row.1 ∧ (s.chan .voltage).mul = row.2.1 ∧
      (lookup s.cfg.qtable (s.chan .voltage).qs 0b11#2).extractLsb' 4 2 = (if row.2.2 then 0b01#2 else 0b10#2) := by
  intro row h
  simp only [List.mem_cons, List.not_mem_nil, or_false] at h
  rcases h with rfl | rfl | rfl | rfl | rfl | rfl <;> decide

theorem meets_TickCountsQticks : (ticking Channel.reset 0xFFFFFFFF).tick < 2 ^ Config.default.tickW := by decide

/-- An `l` of 2 and of 0xFFFF. -/
theorem meets_QmultResult :
    ((0x0300_0000_0002#48).extractLsb' 40 8 = 0x03#8 ∧ 2 ≤ ((0x0300_0000_0002#48).extractLsb' 0 16).toNat) ∧
    (0x0300_0000_FFFF#48).extractLsb' 40 8 = 0x03#8 ∧ 2 ≤ ((0x0300_0000_FFFF#48).extractLsb' 0 16).toNat := by decide

theorem meets_QuietFromTheFourHundredthTick :
    let s := ticking { channel 0x0#4 0#16 false with ref := 41 } 41
    let l := [(0b11#2, 0b11#2)].map (fun p : Pattern × Pattern => Instr.qtick p.1 p.2)
    s.tick < 2 ^ s.cfg.tickW ∧ (s.chan .voltage).ref = s.tick ∧ tableOk s.cfg.qtable = true ∧
      nextIs (execAll l s) (fun t => t.tick == 42) = true ∧ ∀ e ∈ evtTrace .voltage l s, e = 0b00#2 := by decide

theorem meets_FullCycleGivesOneEvent : (after []).cfg.qtable = defaultTable ∧ ((after []).chan .current).qs = 0x0#4 :=
  ⟨rfl, rfl⟩

theorem meets_BounceKeepsTheDetent : (after []).cfg.qtable = defaultTable ∧ ((after []).chan .voltage).qs = 0x0#4 :=
  ⟨rfl, rfl⟩

theorem meets_BounceAndJumpsGiveNoEvent : (after []).cfg.qtable = defaultTable ∧
    ((after []).chan .voltage).qs = 0x0#4 ∧ ∀ x ∈ restPatterns,
      ((ticking (channel x.1 5000#16 false) 0).chan .voltage).qs = x.1 := ⟨rfl, rfl, by decide⟩

/-- The golden request, and another last byte. -/
theorem meets_OneChangedByteInvalidatesFrame : (0x0B#8 : Byte) ≠ 0x0C#8 ∧
    frameValid ([0x01#8, 0x03#8, 0x00#8, 0x00#8, 0x00#8, 0x02#8, 0xC4#8] ++ 0x0B#8 :: []) = true := by decide +kernel

/-- A push into the last free byte, and one into a full buffer. -/
theorem meets_RxpushResult : (received (List.replicate 14 0xAA#8)).rxCnt.toNat = 14 ∧
    (received (List.replicate 15 0xAA#8)).rxCnt.toNat = 15 := by decide

theorem meets_CcDecodeCoversEveryAllowedMap :
    (fun b : Byte => b == 0x01#8) 0x00#8 = false ∧ (fun b : Byte => b == 0x01#8) 0x01#8 = true := by decide

/-- Two states that differ after the frame and agree on it, with a valid frame in it. -/
theorem meets_ParsersReadOnlyTheirFrame :
    (∀ i : Fin 15, i.val < 9 → (received dualFrame).rx[i] = (received (dualFrame ++ [0x55#8])).rx[i]) ∧
    (received dualFrame).rx ≠ (received (dualFrame ++ [0x55#8])).rx ∧
    nextIs (exec .parse2 (received dualFrame)) (fun t => t.parseOk) = true := by decide +kernel

theorem meets_ParsersReadOnlyTheirFrame_single :
    (∀ i : Fin 15, i.val < 7 → (received ccFrame).rx[i] = (received (ccFrame ++ [0x55#8])).rx[i]) ∧
    (received ccFrame).cfg.ccClear = (received (ccFrame ++ [0x55#8])).cfg.ccClear ∧
    nextIs (exec .parse1 (received ccFrame)) (fun t => t.parseOk) = true := by decide +kernel

/-- A sequence without a parse, after a parse that fails and after one that succeeds. -/
theorem meets_ParseOkKeepsTheLastVerdict :
    (∀ i ∈ [Instr.rxclr, Instr.qread .voltage, Instr.rxpush 1#8], isParse i = false) ∧
    nextIs (exec .parse2 (received [])) (fun t => !t.parseOk) = true ∧
    nextIs (exec .parse1 (received [])) (fun t => !t.parseOk) = true ∧
    nextIs (exec .parse1 (received ccFrame)) (fun t => t.parseOk) = true := by decide +kernel

/-- The first and the last byte of a frame replaced. -/
theorem meets_ReceivedFrameIsAcceptedOrDetected :
    ([0x01#8, 0x03#8, 0x04#8, 0x04#8, 0xB0#8, 0x01#8, 0xF4#8] : List Byte).length = 7 ∧
    (withCrc [0x01#8, 0x03#8, 0x04#8, 0x04#8, 0xB0#8, 0x01#8, 0xF4#8])[8]? ≠ some 0xF2#8 ∧
    (withCrc [0x01#8, 0x03#8, 0x04#8, 0x04#8, 0xB0#8, 0x01#8, 0xF4#8])[0]? ≠ some 0x00#8 ∧
    ([0x01#8, 0x03#8, 0x02#8, 0x00#8, 0x01#8] : List Byte).length = 5 ∧
    (withCrc [0x01#8, 0x03#8, 0x02#8, 0x00#8, 0x01#8])[6]? ≠ some 0x85#8 := by decide +kernel

/-- Inputs of a run, each with the same reading of a confirmed write's shadow. -/
def turnsOf (r : Reading) (l : List Input) : List Turn := l.map (fun x => ⟨x, r⟩)

/-- The host's startup (R154) with F7's response, and the patterns of one clockwise detent of the voltage encoder
and its rest. -/
def startup : List Turn :=
  turnsOf .written ([offerOf .host .rxclr, offerOf .host (.frmrd 0x01#8 0x0000#16 2#16)]
    ++ dualFrame.map (fun b => offerOf .host (.rxpush b)) ++ [offerOf .host .parse2])

def detent : List Turn :=
  turnsOf .live ([offerOf .host (.qseed .voltage 1200#16), offerOf .host (.qseed .current 500#16)]
    ++ [0b01#2, 0b00#2, 0b10#2, 0b11#2, 0b11#2].map (fun p => offerOf .tickAgent (.qtick p 0b11#2)))

/-- The host and the block after the startup, and after the detent. -/
def started : HostView × State := (contractRun startup HostView.start (after [])).getD (HostView.start, after [])

def turned : HostView × State :=
  (contractRun (startup ++ detent) HostView.start (after [])).getD (HostView.start, after [])

/-- A QTICK with both encoders at rest. -/
def idleTurn : Turn := ⟨offerOf .tickAgent (.qtick 0b11#2 0b11#2), .live⟩

/-- A QREAD of the voltage channel. -/
def quietRead : Turn := ⟨offerOf .host (.qread .voltage), .live⟩

/-- `n` QTICKs with both encoders at rest move only the tick counter. -/
theorem idle_ticks (n : Nat) (v : HostView) (s : State) (rest : List Turn) (hv : v.phase = .sync .voltage) (hr : s.rst = false)
    (hq : s.cfg = Config.default) (h0 : s.volt.qs = 0x0#4 ∧ s.volt.evt = 0b00#2)
    (h1 : s.curr.qs = 0x0#4 ∧ s.curr.evt = 0b00#2) (ht : s.tick + n < 2 ^ 32) :
    contractRun (List.replicate n idleTurn ++ rest) v s
      = contractRun rest v (s.setTick (s.tick + n)) := by
  induction n generalizing s with
  | zero => rfl
  | succ n ih =>
    have q (ch : Channel) (h : ch.qs = 0x0#4 ∧ ch.evt = 0b00#2) (t : Nat) :
        ch.tickWith Config.default t 0b11#2 = ch := by
      obtain ⟨a, b, _, _, _⟩ := ch
      obtain ⟨h1, h2⟩ := h
      have e1 : a = 0x0#4 := h1
      have e2 : b = 0b00#2 := h2
      subst e1 e2
      simp only [Channel.tickWith, show lookup Config.default.qtable 0x0#4 0b11#2 = 0x00#8 from rfl]
      rfl
    have e : s.takeInput (offerOf .tickAgent (.qtick 0b11#2 0b11#2)) = .next (s.setTick (s.tick + 1)) := by
      have hn : nextTick s.cfg s.tick = s.tick + 1 := by
        rw [hq]
        exact Nat.mod_eq_of_lt (show s.tick + 1 < 2 ^ 32 by omega)
      rw [offerOf, takeInput_offer_ok s _ hr (i := .qtick 0b11#2 0b11#2) rfl, exec_qtick, hn, hq, q _ h0, q _ h1]
      rfl
    have c : contractMove .live v s (offerOf .tickAgent (.qtick 0b11#2 0b11#2)) = some v := by
      have d : decodeCommand 0x010F_0000_0000#48 = .ok (.qtick 0b11#2 0b11#2) := rfl
      have m : holdMove v s 0b11#2 0b11#2 = v := by simp only [holdMove, hv]
      simp only [contractMove, offerOf, encode, hr]
      exact congrArg some m
    rw [List.replicate_succ, List.cons_append, contractRun, idleTurn, c, e]
    have := ih (s.setTick (s.tick + 1)) hr hq h0 h1 (by simp only [setTick_tick]; omega)
    rw [setTick_tick] at this
    rw [show s.tick + (n + 1) = s.tick + 1 + n by omega]
    exact this

/-- A run in two halves. -/
theorem run_append {a b : List Turn} {v v' : HostView} {s s' : State}
    (h : contractRun a v s = some (v', s')) : contractRun (a ++ b) v s = contractRun b v' s' := by
  induction a generalizing v s with
  | nil => cases h; rfl
  | cons x a ih =>
    rw [List.cons_append, contractRun] at *
    split at h
    · exact ih h
    · cases h

/-- A run that completes, with its end in two parts. -/
theorem run_end {turns : List Turn} (h : (contractRun turns HostView.start (after [])).isSome = true) :
    contractRun turns HostView.start (after []) =
      some (((contractRun turns HostView.start (after [])).getD (HostView.start, after [])).1,
        ((contractRun turns HostView.start (after [])).getD (HostView.start, after [])).2) := by
  obtain ⟨x, hx⟩ := Option.isSome_iff_exists.mp h
  rw [hx]
  rfl

theorem startup_runs : contractRun startup HostView.start (after []) = some (started.1, started.2) :=
  run_end (by decide +kernel)

theorem detent_runs : contractRun (startup ++ detent) HostView.start (after []) = some (turned.1, turned.2) :=
  run_end (by decide +kernel)

/-- After the detent, 400 quiet ticks and a QREAD of the voltage channel, the contract allows the write of 1201. -/
theorem meets_HostWritesOnlyQuietSetpoints : ∃ turns v v' s,
    contractRun turns HostView.start (State.resetWith Config.default []) = some (v, s) ∧
    contractMove .live v s (offerOf .host (.frmwr 0x01#8 0x0000#16 1201#16)) = some v' := by
  have idle := idle_ticks 400 turned.1 turned.2 [quietRead] (by decide +kernel) (by decide +kernel)
    (by decide +kernel) (by decide +kernel) (by decide +kernel) (by decide +kernel)
  have run := (run_append (b := List.replicate 400 idleTurn
    ++ [quietRead]) detent_runs).trans idle
  have last : (contractRun [quietRead] turned.1
      (turned.2.setTick (turned.2.tick + 400))).any (fun x =>
        (contractMove .live x.1 x.2 (offerOf .host (.frmwr 0x01#8 0x0000#16 1201#16))).isSome) = true := by
    decide +kernel
  obtain ⟨⟨v, s⟩, hx, hv⟩ := Option.any_eq_true _ _ |>.mp last
  obtain ⟨v', hv⟩ := Option.isSome_iff_exists.mp hv
  exact ⟨_, v, v', s, run.trans hx, hv⟩

/-- The startup, the seeding and the patterns of the detent up to its event; that event and the first tick after it. -/
def beforeEvent : List Turn := startup ++ turnsOf .live
  ([offerOf .host (.qseed .voltage 1200#16), offerOf .host (.qseed .current 500#16)]
    ++ [0b01#2, 0b00#2, 0b10#2].map (fun p => offerOf .tickAgent (.qtick p 0b11#2)))

def eventTurns : List Turn := [idleTurn, idleTurn]

/-- The host and the block before that event, and after the two turns. -/
def atEvent : HostView × State :=
  (contractRun beforeEvent HostView.start (after [])).getD (HostView.start, after [])

def pastEvent : HostView × State := (contractRun eventTurns atEvent.1 atEvent.2).getD atEvent

/-- 399 ticks after the event of a detent, the last tick at which a write is barred. -/
theorem meets_NoWriteWithin400TicksOfAnEvent : ∃ before rest v w s t,
    contractRun before HostView.start (State.resetWith Config.default []) = some (v, s) ∧
    (lookup s.cfg.qtable (s.chan .voltage).qs 0b11#2).extractLsb' 4 2 ≠ 0b00#2 ∧
    contractRun (⟨offerOf .tickAgent (.qtick 0b11#2 0b11#2), .live⟩ :: rest) v s = some (w, t) ∧
    (rest.filter (fun turn => isTickTurn turn)).length = 399 := by
  have idle := idle_ticks 398 pastEvent.1 pastEvent.2 [] (by decide +kernel) (by decide +kernel)
    (by decide +kernel) (by decide +kernel) (by decide +kernel) (by decide +kernel)
  have two : contractRun eventTurns atEvent.1 atEvent.2 = some (pastEvent.1, pastEvent.2) := by decide +kernel
  have run := (run_append (b := List.replicate 398 idleTurn ++ []) two).trans idle
  refine ⟨beforeEvent, idleTurn :: (List.replicate 398 idleTurn ++ []), atEvent.1, _, atEvent.2, _,
    run_end (by decide +kernel), by decide +kernel, run, by decide +kernel⟩

/-- The first QSEED after the startup, and a command of the startup itself. -/
theorem meets_HostSeedsOnlyFromConfirmedRead :
    (∃ turns v v' s, contractRun turns HostView.start (State.resetWith Config.default []) = some (v, s) ∧
      contractMove .live v s (offerOf .host (.qseed .voltage 1200#16)) = some v') ∧
    ∃ v', contractRun [] HostView.start (State.resetWith Config.default []) = some (HostView.start, after []) ∧
      contractMove .live HostView.start (after []) (offerOf .host .rxclr) = some v' ∧
      HostView.start.phase = .startup .clear := by
  refine ⟨?_, _, rfl, rfl, rfl⟩
  have h : (contractMove .live started.1 started.2 (offerOf .host (.qseed .voltage 1200#16))).isSome = true := by
    decide +kernel
  obtain ⟨v', hv⟩ := Option.isSome_iff_exists.mp h
  exact ⟨startup, started.1, v', started.2, startup_runs, hv⟩

/-! ### The monitor of the contract -/

/-- The turns of a host that starts up and seeds both channels (R154). -/
def seeded : List Turn := startup ++ turnsOf .written
  [offerOf .host (.qseed .voltage 1200#16), offerOf .host (.qseed .current 500#16)]

/-- A CC read (R156) with F13's response. -/
def ccRead : List Turn := turnsOf .written ([offerOf .host .rxclr, offerOf .host (.frmrd 0x01#8 0x0008#16 1#16)]
  ++ ccFrame.map (fun b => offerOf .host (.rxpush b)) ++ [offerOf .host .parse1])

/-- Toggles of the voltage button at each of the selects, in turn. -/
def presses (l : List Bool) : List Turn := turnsOf .written (l.map (fun m => offerOf .host (.qmult .voltage m)))

/-- The two QREADs of a pass that writes nothing. -/
def quietPass : List Turn := turnsOf .written [offerOf .host (.qread .voltage), offerOf .host (.qread .current)]

/-- R156: one press in every pass, handled before the synchronisation as in 95 P2; and one handled after the CC read. -/
theorem test_button_once_in_every_pass :
    (contractRun (seeded ++ presses [true] ++ quietPass ++ ccRead ++ presses [false] ++ quietPass) HostView.start
      (after [])).isSome = true ∧
    (contractRun (seeded ++ quietPass ++ ccRead ++ presses [true] ++ quietPass ++ ccRead ++ presses [false])
      HostView.start (after [])).isSome = true := by decide +kernel

/-- R156: no second press of one button in one pass. -/
theorem test_button_not_twice_in_a_pass :
    contractRun (seeded ++ presses [true, false]) HostView.start (after []) = none ∧
    contractRun (seeded ++ quietPass ++ ccRead ++ presses [true, false, true]) HostView.start (after []) = none := by
  decide +kernel

/-- R155: a write that waits is held for 400 ticks after an event of its channel, a tick without one counts the hold
down, and the write goes out only when the hold is over. -/
theorem test_write_held :
    let v (hold : Nat) : HostView := { HostView.start with phase := .write .voltage 1201#16 hold }
    let s : State := { after [] with volt := channel 0x1#4 1211#16 true }
    let event := offerOf .tickAgent (.qtick 0b11#2 0b11#2)
    let write := offerOf .host (.frmwr 0x01#8 0x0000#16 1201#16)
    s.hasEvent .voltage 0b11#2 0b11#2 = true ∧
    contractMove .live (v 0) s event = some (v 400) ∧ contractMove .live (v 3) (after []) event = some (v 2) ∧
    contractMove .live (v 1) s write = none ∧ (contractMove .live (v 0) s write).isSome = true := by decide +kernel

/-- 93 row 11: after a confirmed write of 1201 while the setpoint has moved to 1211, the shadow is either value. -/
theorem test_confirm_readings :
    let v : HostView := { HostView.start with phase := .confirm .voltage 1201#16 .receive }
    let s : State := { received dualFrame with volt := channel 0x0#4 1211#16 true }
    (hostMove .written v s .parse2).map (fun w => w.shadow .voltage) = some 1201#16 ∧
    (hostMove .live v s .parse2).map (fun w => w.shadow .voltage) = some 1211#16 := by decide +kernel

/-- R160, R154: a released pin driven released is no reset, and the host goes on; an assertion makes it start again. -/
theorem test_reset_move : (contractMove .live { HostView.start with phase := .passEnd } (after []) (.rst false)).map
      (fun w => w.phase) = some .passEnd ∧
    (contractMove .live { HostView.start with phase := .passEnd } (after []) (.rst true)).map (fun w => w.phase)
      = some (.startup .clear) ∧
    (contractMove .live { HostView.start with phase := .passEnd } { after [] with rst := true } (.rst false)).map
      (fun w => w.phase) = some (.startup .clear) := by decide

end Sys2Proof.Tests
end

