-- ==== Sys2Proof/Proofs/Scope.lean ====
section
/-!
SUPPORT. The open parameters of 00_scope.md R2: no step changes them, and the parameter CC_DECODE takes exactly the
maps of 42_framer.md R117.
-/

namespace Sys2Proof.Proofs

open Sys2Proof Sys2Proof.Machine

/-! ### The parameters are constant -/

/-- The reset pin does not reach the parameters: `Reset()` starts from those the block has (R160). -/
@[simp] theorem driveRst_cfg (s : State) (level : Bool) : (s.driveRst level).cfg = s.cfg := by
  rcases driveRst_cases s level with ⟨-, e⟩ | ⟨-, -, e⟩ | ⟨-, -, e⟩ <;> simp [e]

theorem takeInput_cfg {s t : State} {inp : Input} (h : s.takeInput inp = .next t) : t.cfg = s.cfg := by
  rcases takeInput_cases s h with
    ⟨level, -, rfl⟩ | ⟨_, _, -, -, rfl⟩ | ⟨_, _, i, -, -, -, hexec⟩ | ⟨_, _, _, -, -, -, rfl⟩
  · exact driveRst_cfg s level
  · rfl
  · exact (exec_rest s hexec).1
  · exact cmdError_cfg s

/-- Settles O15: a step waits or takes one input, and no input reaches the parameters. -/
theorem parametersNeverChange : Obligations.ParametersNeverChange := by
  intro s t h
  obtain ⟨-, ⟨-, rfl⟩ | ⟨inp, rest, -, htake⟩⟩ := step_cases s h
  · rfl
  · exact (takeInput_cfg htake).trans (setInputs_cfg s rest)

/-! ### CC_DECODE -/

@[simp] theorem ccDecode_zero (cfg : Config) : ccDecode cfg 0x00#8 = false := rfl

@[simp] theorem ccDecode_one (cfg : Config) : ccDecode cfg 0x01#8 = true := rfl

/-- On every byte but the two fixed ones the parameter decides. -/
theorem ccDecode_of_ne (cfg : Config) {b : Byte} (h0 : b ≠ 0x00#8) (h1 : b ≠ 0x01#8) :
    ccDecode cfg b = !cfg.ccClear.contains b := by
  simp [ccDecode, h0, h1]

/-- The bytes a map sends to 0, as a value of the field `ccClear`. -/
def clearedBytes (f : Byte → Bool) : List Byte := ((List.finRange (2 ^ 8)).map BitVec.ofFin).filter fun b => !f b

theorem contains_clearedBytes (f : Byte → Bool) (b : Byte) : (clearedBytes f).contains b = !f b := by
  have hb : b ∈ (List.finRange (2 ^ 8)).map BitVec.ofFin := List.mem_map.mpr ⟨b.toFin, List.mem_finRange _, rfl⟩
  rw [Bool.eq_iff_iff, List.contains_iff_mem, clearedBytes, List.mem_filter]
  exact and_iff_right hb

/-- With `clearedBytes f` as its `ccClear`, a block decodes by `f`, when `f` is allowed by R117. -/
theorem ccDecode_clearedBytes (cfg : Config) {f : Byte → Bool} (h0 : f 0x00#8 = false) (h1 : f 0x01#8 = true)
    (b : Byte) : ccDecode { cfg with ccClear := clearedBytes f } b = f b := by
  by_cases e0 : b = 0x00#8
  · rw [e0, ccDecode_zero, h0]
  by_cases e1 : b = 0x01#8
  · rw [e1, ccDecode_one, h1]
  rw [ccDecode_of_ne _ e0 e1, contains_clearedBytes, Bool.not_not]

/-- Settles O50: the two fixed bytes are decoded before the parameter is read, and an allowed map is that of the list
of the bytes it clears. -/
theorem ccDecodeCoversEveryAllowedMap : Obligations.CcDecodeCoversEveryAllowedMap :=
  ⟨fun cfg => ⟨ccDecode_zero cfg, ccDecode_one cfg⟩,
    fun f h0 h1 cfg => ⟨clearedBytes f, ccDecode_clearedBytes cfg h0 h1⟩⟩

end Sys2Proof.Proofs
end

