-- ==== Sys2Proof/Proofs/State.lean ====
section
/-!
SUPPORT. The registers as 10_state.md gives them: the step at the command port (R12), the widths of the output ports
(R11), and what counts the ticks (R18).
-/

namespace Sys2Proof.Proofs

open Sys2Proof Sys2Proof.Machine

/-! ### The command port -/

/-- Settles O7: an allowed table lets the step take the oldest input, and a packet that decodes is executed by either
agent. -/
theorem stepRunsDecodedInstruction : Obligations.StepRunsDecodedInstruction := by
  intro s agent p rest i htable hrst hinputs hdecode
  calc step s = (s.setInputs rest).takeInput (.offer agent p) := by rw [step_of_table s htable, hinputs]
    _ = exec i (s.setInputs rest) := takeInput_offer_ok (s.setInputs rest) agent hrst hdecode

/-! ### The tick counter -/

/-- Of all instructions only QTICK writes `tick`, and it advances it by one (R18). -/
theorem exec_next_tick (s : State) (i : Instr) : ∃ t, exec i s = .next t ∧ t.cfg = s.cfg ∧
    t.tick = if isQtick i then nextTick s.cfg s.tick else s.tick := by
  cases i with
  | qtick p0 p1 => exact ⟨_, exec_qtick s p0 p1, by simp [isQtick]⟩
  | _ => exact ⟨_, rfl, by simp [isQtick]⟩

/-- Settles O29, by induction on the instructions: a QTICK at the head adds its one to the count of the tail, modulo
2^TICK_W, and any other instruction hands the tail the same `tick`. -/
theorem tickCountsQticks : Obligations.TickCountsQticks := by
  intro is
  induction is with
  | nil => exact fun s hs => ⟨s, rfl, (Nat.mod_eq_of_lt hs).symm⟩
  | cons i is ih =>
    intro s hs
    obtain ⟨u, hu, hcfg, htick⟩ := exec_next_tick s i
    have hbound : u.tick < 2 ^ u.cfg.tickW := by
      rw [htick, hcfg]
      split
      · exact nextTick_lt s.cfg s.tick
      · exact hs
    obtain ⟨t, ht, hcount⟩ := ih u hbound
    refine ⟨t, (execAll_cons s is hu).trans ht, ?_⟩
    rw [hcount, htick, hcfg]
    cases hq : isQtick i with
    | false => simp [hq]
    | true => simp [hq, nextTick, Nat.add_comm, Nat.add_left_comm]

/-! ### The output ports -/

/-- The parts of the block's invariant. -/
theorem state_inv_iff (s : State) : s.inv = true ↔ tableOk s.cfg.qtable = true ∧ s.volt.inv s.cfg = true ∧
    s.curr.inv s.cfg = true ∧ s.tick < 2 ^ s.cfg.tickW ∧ s.rd.inv s.cfg = true ∧ rxTailZero s = true ∧
    txInv s = true := by
  simp only [State.inv, Bool.and_eq_true, decide_eq_true_eq, and_assoc]

/-- Either channel of a block that meets the invariant is within its bounds. -/
theorem chan_inv_of_inv {s : State} (h : s.inv = true) (c : Chan) : (s.chan c).inv s.cfg = true := by
  obtain ⟨-, hvolt, hcurr, -⟩ := (state_inv_iff s).mp h
  cases c
  · exact hvolt
  · exact hcurr

/-- An entry without bits 7:6 (R83, I3) fits the six bits of R64. -/
theorem entryOk_lt {e : Byte} (h : entryOk e = true) : e.toNat < 2 ^ 6 := by
  revert h
  revert e
  decide +kernel

/-- Settles O23: a register of fixed width is a `BitVec` or a `Bool` of it; the invariant bounds the registers of
TICK_W bits, and R83 bounds an entry of QTABLE. -/
theorem portValuesFitTheirWidths : Obligations.PortValuesFitTheirWidths := by
  intro s p h
  obtain ⟨htable, -, -, htick, hrd, -⟩ := (state_inv_iff s).mp h
  obtain ⟨-, hrdRef, hrdTick, -⟩ := (ReadOut.inv_iff s.cfg s.rd).mp hrd
  cases p with
  | ref c =>
    obtain ⟨-, -, href⟩ := (Channel.inv_iff s.cfg (s.chan c)).mp (chan_inv_of_inv h c)
    exact href
  | tick => exact htick
  | rdRef => exact hrdRef
  | rdTick => exact hrdTick
  | qtable q p => exact entryOk_lt (lookup_ok htable q p)
  | mul | rdQuiet | txValid | rxOvf | resCc | parseOk | cmdErr | ccLed => exact Bool.toNat_lt _
  | qs | evt | sp | rdCh | rdSp | crc | tx | rx | rxCnt | resV | resI => exact BitVec.isLt _

end Sys2Proof.Proofs
end

/-!
SUPPORT. The command port and its two agents (20_memory.md R48, R49): a run over offered instructions is their
execution in order, and which instructions may be issued twice for once.
-/

namespace Sys2Proof.Proofs

open Sys2Proof Sys2Proof.Machine

/-! ### Every instruction is read back from its encoding -/

/-- A command word decodes to the row of R61 with its operation code, if that row's reserved bits are zero. -/
theorem decode_commandWord {op a : Byte} {h l : Word} {i : Instr} (hrow : ⟨op, true, i⟩ ∈ opRows a h l) :
    decode (.command (commandWord op a h l)) = .ok i :=
  (decodeCommand_commandWord op a h l).trans (decodeFields_ok.mpr ⟨_, hrow, rfl, rfl, rfl⟩)

/-- The patterns operand of QTICK reads back as the two patterns, with its reserved bits zero. -/
theorem qtickOperand_reads (p0 p1 : Pattern) : (0#4 ++ p1 ++ p0 : Byte).extractLsb' 4 4 = 0#4 ∧
    (0#4 ++ p1 ++ p0 : Byte).extractLsb' 0 2 = p0 ∧ (0#4 ++ p1 ++ p0 : Byte).extractLsb' 2 2 = p1 := by
  revert p0 p1
  decide

/-- The select operand of QMULT reads back as the select, with its reserved bits zero. -/
theorem selectOperand_reads (m : Bool) : (0#15 ++ BitVec.ofBool m : Word).extractLsb' 1 15 = 0#15 ∧
    (0#15 ++ BitVec.ofBool m : Word)[0] = m := by
  cases m <;> decide

/-- Decoding inverts encoding: a command word by its row of R61, a request frame by its function code and its own
CRC, a response frame by its length. -/
theorem decode_encode (i : Instr) : decode (encode i) = .ok i := by
  cases i with
  | qtick p0 p1 => exact decode_commandWord (by simp [opRows, qtickOperand_reads])
  | qseed c v => exact decode_commandWord (by simp [opRows, chanOperand_reads])
  | qmult c m => exact decode_commandWord (by simp [opRows, chanOperand_reads, selectOperand_reads])
  | qread c => exact decode_commandWord (by simp [opRows, chanOperand_reads])
  | nop | crcinit | crcbyte | frmrd | frmwr | rxclr | rxpush | parse2 | parse1 =>
    exact decode_commandWord (by simp [opRows])
  | mbReadReq s r n => exact decodeFrame_request funcRead s r n
  | mbWriteReq s r v => exact decodeFrame_request funcWrite s r v
  | mbRead2Resp | mbRead1Resp =>
    simp [encode, decode, decodeFrame, withTrailer, dualPayload, singlePayload]

/-! ### A run executes what is offered -/

/-- Writing back the inputs that already wait changes nothing. -/
theorem setInputs_self {s : State} {l : List Input} (h : s.inputs = l) : s.setInputs l = s := by
  subst h
  rfl

/-- The step executes an instruction offered by either agent, with the inputs after it waiting. -/
theorem step_offerOf {s : State} {agent : Agent} {i : Instr} {rest : List Input} (htable : tableOk s.cfg.qtable = true)
    (hrst : s.rst = false) (hinputs : s.inputs = offerOf agent i :: rest) : step s = exec i (s.setInputs rest) :=
  stepRunsDecodedInstruction s agent (encode i) rest i htable hrst hinputs (decode_encode i)

/-- Settles O9, by induction on the offers: the step executes the first, whichever agent made it, and an instruction
does the same whatever inputs wait behind it. -/
theorem runExecutesInAcceptedOrder : Obligations.RunExecutesInAcceptedOrder := by
  intro l rest
  induction l with
  | nil =>
    intro s _ _ hinputs
    exact congrArg Host.Outcome.next (setInputs_self hinputs).symm
  | cons x l ih =>
    intro s htable hrst hinputs
    obtain ⟨t, hexec, hcfg, -, hrst', hinputs'⟩ :=
      exec_next (s.setInputs (l.map (fun x => offerOf x.1 x.2) ++ rest)) x.2
    have hstep : step s = .next t := (step_offerOf htable hrst hinputs).trans hexec
    have hhead : exec x.2 (s.setInputs rest) = .next (t.setInputs rest) := exec_setInputs hexec rest
    rw [List.length_cons, core_run_next _ hstep, ih t (hcfg ▸ htable) (hrst'.trans hrst) hinputs', List.map_cons,
      execAll_cons _ _ hhead]

/-! ### Issuing an instruction again -/

/-- A second write of one channel by the same update, where the update done twice is the update done once. -/
theorem setChan_again (s : State) (c : Chan) {f : Channel → Channel} (hf : ∀ ch, f (f ch) = f ch) :
    (s.setChan c (f (s.chan c))).setChan c (f ((s.setChan c (f (s.chan c))).chan c)) = s.setChan c (f (s.chan c)) := by
  rw [setChan_chan_same, setChan_setChan, hf]

/-- A snapshot does not look at the latch it goes into (R90), so the second leaves what the first left. -/
theorem setRd_snapshot_again (s : State) (c : Chan) :
    (s.setRd (s.snapshot c)).setRd ((s.setRd (s.snapshot c)).snapshot c) = s.setRd (s.snapshot c) := by
  cases c <;> rfl

/-- Receiving the same bytes again after a parse that left only results, and parsing again, changes nothing. -/
theorem receive_parse_again (s : State) (bytes : List Byte) {parse : State → State}
    (hresults : ∀ u, ∃ v i cc ok, parse u = u.setResults v i cc ok) (hparse : ∀ u, parse (parse u) = parse u) :
    parse ((parse (s.clearRx.pushAll bytes)).clearRx.pushAll bytes) = parse (s.clearRx.pushAll bytes) := by
  have hreceive : (parse (s.clearRx.pushAll bytes)).clearRx.pushAll bytes = parse (s.clearRx.pushAll bytes) := by
    obtain ⟨v, i, cc, ok, e⟩ := hresults (s.clearRx.pushAll bytes)
    rw [e, receive_again]
  rw [hreceive, hparse]

/-- An instruction whose repetition does not matter answers a state that it leaves as it is: it writes constants, or
values computed from what it does not write, or it is a parse, which leaves what it reads. -/
theorem exec_again (s : State) {i : Instr} (hi : repeatMatters i = false) :
    ∃ t, exec i s = .next t ∧ exec i t = .next t := by
  cases i with
  | qtick | crcbyte | rxpush => cases hi
  | nop | crcinit | frmrd | frmwr | rxclr | mbReadReq | mbWriteReq => exact ⟨_, rfl, rfl⟩
  | qseed c v =>
    exact ⟨_, rfl, congrArg Host.Outcome.next
      (setChan_again s c (f := fun ch => { ch with sp := clampSp (v.toNat : Int) }) fun _ => rfl)⟩
  | qmult c m =>
    exact ⟨_, rfl, congrArg Host.Outcome.next (setChan_again s c (f := fun ch => { ch with mul := m }) fun _ => rfl)⟩
  | qread c => exact ⟨_, rfl, congrArg Host.Outcome.next (setRd_snapshot_again s c)⟩
  | parse2 => exact ⟨_, rfl, congrArg Host.Outcome.next (parseDual_parseDual s)⟩
  | parse1 => exact ⟨_, rfl, congrArg Host.Outcome.next (parseSingle_parseSingle s)⟩
  | mbRead2Resp =>
    exact ⟨_, rfl, congrArg Host.Outcome.next (receive_parse_again s _ parseDual_results parseDual_parseDual)⟩
  | mbRead1Resp =>
    exact ⟨_, rfl, congrArg Host.Outcome.next (receive_parse_again s _ parseSingle_results parseSingle_parseSingle)⟩

/-- Settles O21: the state after an instruction is the one it leaves as it is. -/
theorem otherCommandsAreIdempotent : Obligations.OtherCommandsAreIdempotent := by
  intro i s t hi h
  obtain ⟨u, hu, hagain⟩ := exec_again s hi
  cases hu.symm.trans h
  exact hagain

end Sys2Proof.Proofs

/-!
SUPPORT. The encoding (30_encoding.md): decoding and encoding are inverse to each other, a word decodes by the match and
mask table, the words of the assembler, and the wire rows beside the commands that build or parse their frames.
-/

namespace Sys2Proof.Proofs

open Sys2Proof Sys2Proof.Machine

/-! ### The round trips -/

/-- Settles O2: a command word is read by its row of R61, a request frame by its function code and its own CRC, a
response frame by its length. -/
theorem decodeOfEncode : Obligations.DecodeOfEncode := decode_encode

/-- A patterns operand of QTICK with its reserved bits zero is the operand of the two patterns it holds. -/
theorem qtickOperand_of_reserved (a : Byte) (h : a.extractLsb' 4 4 = 0#4) :
    (0#4 ++ a.extractLsb' 2 2 ++ a.extractLsb' 0 2 : Byte) = a := by
  revert a
  decide +kernel

/-- A select operand of QMULT with its reserved bits zero is the operand of the select it holds. -/
theorem selectOperand_of_reserved (l : Word) (h : l.extractLsb' 1 15 = 0#15) :
    (0#15 ++ BitVec.ofBool l[0] : Word) = l := by
  have hselect : BitVec.ofBool l[0] = l.extractLsb' 0 1 := by
    ext i hi
    simp [show i = 0 by omega]
  rw [← h, hselect]
  exact BitVec.extractLsb'_append_extractLsb'

/-- The instruction of a row of R61 whose reserved bits are zero is encoded by the fields it was read from. -/
theorem encode_opRow {a : Byte} {h l : Word} {r : OpRow} (hrow : r ∈ opRows a h l) (hclear : r.clear = true) :
    encode r.instr = .command (commandWord r.op a h l) := by
  simp only [opRows, List.mem_cons, List.not_mem_nil, or_false] at hrow
  rcases hrow with rfl | rfl | rfl | rfl | rfl | rfl | rfl | rfl | rfl | rfl | rfl | rfl | rfl <;>
    simp only [Bool.and_eq_true, beq_iff_eq] at hclear <;>
    simp [encode, hclear, qtickOperand_of_reserved, chanOperand_of_reserved, selectOperand_of_reserved]

/-- A command word that decodes is the encoding of its instruction: its row of R61 fixes every reserved bit. -/
theorem encode_decodeCommand {w : CmdWord} {i : Instr} (h : decodeCommand w = .ok i) : encode i = .command w := by
  obtain ⟨r, hrow, hop, hclear, rfl⟩ := decodeFields_ok.mp h
  rw [encode_opRow hrow hclear, hop, commandWord_fields]

/-- Eight bytes with a matching CRC are the request frame of the fields they hold. -/
theorem withCrc_requestPayload {f s rh rl xh xl cl ch : Byte} (hcrc : crcMatches [s, f, rh, rl, xh, xl] cl ch = true) :
    withCrc (requestPayload f s (concat rh rl) (concat xh xl)) = [s, f, rh, rl, xh, xl, cl, ch] := by
  have hpayload : requestPayload f s (concat rh rl) (concat xh xl) = [s, f, rh, rl, xh, xl] := by
    simp [requestPayload]
  simp [withCrc, withTrailer, hpayload, ← (crcMatches_iff [s, f, rh, rl, xh, xl] cl ch).mp hcrc]

/-- A frame that decodes is the encoding of its instruction: a request's CRC was checked, and a response keeps its. -/
theorem encode_decodeFrame {bytes : List Byte} {i : Instr} (h : decodeFrame bytes = .ok i) :
    encode i = .frame bytes := by
  unfold decodeFrame at h
  split at h
  case h_1 =>
    split_ifs at h with hcrc hread hwrite <;> cases h
    · rw [encode, ← hread, withCrc_requestPayload (by simpa using hcrc)]
    · rw [encode, ← hwrite, withCrc_requestPayload (by simpa using hcrc)]
  case h_2 | h_3 =>
    cases h
    simp [encode, withTrailer, dualPayload, singlePayload]
  case h_4 => cases h

/-- Encoding inverts decoding. -/
theorem encode_decode {p : Packet} {i : Instr} (h : decode p = .ok i) : encode i = p := by
  cases p with
  | command w => exact encode_decodeCommand h
  | frame bytes => exact encode_decodeFrame h

/-- Settles O3: every bit of a word or a frame is read as part of an operand or checked. -/
theorem encodeOfDecode : Obligations.EncodeOfDecode := fun _ _ => encode_decode

/-! ### The match and mask table -/

/-- The encoding of every instruction has the form of its row of the opcode table. -/
theorem encode_rowForm (i : Instr) : Laws.RowForm.Statement i := by
  cases i
  exacts [Laws.RowForm.nop, Laws.RowForm.qtick .., Laws.RowForm.qseed .., Laws.RowForm.qmult .., Laws.RowForm.qread ..,
    Laws.RowForm.crcinit, Laws.RowForm.crcbyte .., Laws.RowForm.frmrd .., Laws.RowForm.frmwr .., Laws.RowForm.rxclr,
    Laws.RowForm.rxpush .., Laws.RowForm.parse2, Laws.RowForm.parse1, Laws.RowForm.mbReadReq ..,
    Laws.RowForm.mbWriteReq .., Laws.RowForm.mbRead2Resp .., Laws.RowForm.mbRead1Resp ..]

/-- A word that decodes selects the row of R62 named after its instruction. -/
theorem selects_of_decode {w : CmdWord} {i : Instr} (h : decode (.command w) = .ok i) :
    ∃ r ∈ matchTable, r.mnemonic = mnemonicOf i ∧ w &&& r.mask = r.pattern := by
  have hform := encode_rowForm i
  rw [Laws.RowForm.Statement, encode_decode h] at hform
  exact hform

/-- The rows of R62 differ in their names. -/
theorem matchRow_eq_of_mnemonic : ∀ r ∈ matchTable, ∀ q ∈ matchTable, r.mnemonic = q.mnemonic → r = q := by
  decide

/-- The rows of R62 differ in `op`. -/
theorem matchRow_eq_of_op :
    ∀ r ∈ matchTable, ∀ q ∈ matchTable, opField r.pattern = opField q.pattern → r = q := by
  decide

/-- Every mask of R62 covers `op`. -/
theorem matchRow_mask_op : ∀ r ∈ matchTable, opField r.mask = BitVec.allOnes 8 := by
  decide

/-- A word that selects a row of R62 has the row's `op`. -/
theorem opField_of_selects {w : CmdWord} {r : MatchRow} (hr : r ∈ matchTable) (hsel : w &&& r.mask = r.pattern) :
    opField r.pattern = opField w := by
  calc opField r.pattern = opField (w &&& r.mask) := by rw [hsel]
    _ = opField w &&& opField r.mask := BitVec.extractLsb'_and
    _ = opField w := by rw [matchRow_mask_op r hr, BitVec.and_allOnes]

/-- No word selects two rows, because the rows differ in `op` and every mask covers it (R62). -/
theorem selects_unique {w : CmdWord} {r q : MatchRow} (hr : r ∈ matchTable) (hq : q ∈ matchTable)
    (hwr : w &&& r.mask = r.pattern) (hwq : w &&& q.mask = q.pattern) : r = q :=
  matchRow_eq_of_op r hr q hq ((opField_of_selects hr hwr).trans (opField_of_selects hq hwq).symm)

/-- A field that a mask covers is zero where the masked word is. -/
theorem extractLsb'_eq_zero_of_and {n start len : Nat} {x m : BitVec n} (h : x &&& m = 0#n)
    (hm : m.extractLsb' start len = BitVec.allOnes len) : x.extractLsb' start len = 0#len := by
  rw [← BitVec.and_allOnes (x := x.extractLsb' start len), ← hm, ← BitVec.extractLsb'_and, h]
  ext i hi
  simp

/-- R62's mask of QTICK's `a` covers the bits R61 reserves. -/
theorem qtickReserved_of_mask {a : Byte} (h : a &&& 0xF0#8 = 0#8) : a.extractLsb' 4 4 = 0#4 :=
  extractLsb'_eq_zero_of_and h rfl

/-- R62's mask of a channel's `a` covers the bits R61 reserves. -/
theorem chanReserved_of_mask {a : Byte} (h : a &&& 0xFE#8 = 0#8) : a.extractLsb' 1 7 = 0#7 :=
  extractLsb'_eq_zero_of_and h rfl

/-- R62's mask of QMULT's `l` covers the bits R61 reserves. -/
theorem selectReserved_of_mask {l : Word} (h : l &&& 0xFFFE#16 = 0#16) : l.extractLsb' 1 15 = 0#15 :=
  extractLsb'_eq_zero_of_and h rfl

/-- A word that selects a row of R62 has the operation code of a row of R61, with that row's reserved bits zero: the
row's condition is split into its four fields, and read field by field. -/
theorem opRow_of_selects {w : CmdWord} {r : MatchRow} (hr : r ∈ matchTable) (hsel : w &&& r.mask = r.pattern) :
    ∃ x ∈ opRows (aField w) (hField w) (lField w), x.op = opField w ∧ x.clear = true := by
  rw [← commandWord_fields w, ← commandWord_fields r.mask, ← commandWord_fields r.pattern, commandWord_and,
    commandWord_inj] at hsel
  obtain ⟨hop, ha, hh, hl⟩ := hsel
  generalize opField w = op, aField w = a, hField w = h, lField w = l at *
  have hbyte (b : Byte) : b &&& 0xFF#8 = b := BitVec.and_allOnes
  have hword (x : Word) : x &&& 0xFFFF#16 = x := BitVec.and_allOnes
  simp only [matchTable, List.mem_cons, List.not_mem_nil, or_false] at hr
  rcases hr with rfl | rfl | rfl | rfl | rfl | rfl | rfl | rfl | rfl | rfl | rfl | rfl | rfl <;>
    simp [opField, aField, hField, lField, hbyte, hword] at hop ha hh hl <;>
    simp [opRows, hop, ha, hh, hl, qtickReserved_of_mask, chanReserved_of_mask, selectReserved_of_mask]

/-- Settles O4: what decodes is an encoding, which selects the row of its own name; what selects a row of R62 meets a
row of R61; and a row is fixed by its `op` and by its name. -/
theorem decodeFollowsMatchAndMask : Obligations.DecodeFollowsMatchAndMask := by
  refine ⟨fun w => ⟨⟨?decodes, ?selects⟩, ?named⟩, fun w r hr q hq => selects_unique hr hq⟩
  case decodes =>
    rintro ⟨i, h⟩
    obtain ⟨r, hr, -, hsel⟩ := selects_of_decode h
    exact ⟨r, hr, hsel⟩
  case selects =>
    rintro ⟨r, hr, hsel⟩
    obtain ⟨x, hx, hop, hclear⟩ := opRow_of_selects hr hsel
    exact ⟨x.instr, decodeFields_ok.mpr ⟨x, hx, hop, hclear, rfl⟩⟩
  case named =>
    intro i h r hr
    obtain ⟨q, hq, hname, hsel⟩ := selects_of_decode h
    constructor
    · intro hr'
      rw [selects_unique hr hq hr' hsel, hname]
    · intro hr'
      rwa [matchRow_eq_of_mnemonic r hr q hq (hr'.trans hname.symm)]

/-! ### The assembler -/

/-- The `a` operand of a channel written as a number is that number. -/
theorem chanOperand_toNat {c : Nat} (h : c < 2) : (chanOperand (chanOfBit (BitVec.ofNat 1 c))).toNat = c := by
  interval_cases c <;> rfl

/-- The `a` operand of QTICK as a number (R61). -/
theorem qtickOperand_toNat (p0 p1 : Pattern) : (0#4 ++ p1 ++ p0 : Byte).toNat = p1.toNat * 4 + p0.toNat := by
  revert p0 p1
  decide

/-- The `l` operand of QMULT as a number (R61). -/
theorem selectOperand_toNat (m : Bool) : (0#15 ++ BitVec.ofBool m : Word).toNat = if m then 1 else 0 := by
  cases m <;> rfl

/-- A channel operand is taken when it is 0 or 1. -/
theorem chanOperandOf_eq (n : Nat) :
    chanOperandOf n = if n < 2 then some (chanOfBit (BitVec.ofNat 1 n)) else none := by
  by_cases h : n < 2 <;> simp [chanOperandOf, operand, h]

/-- What follows an operand in range depends on the same range. -/
theorem ite_some_bind {α β : Type} (p : Prop) [Decidable p] (x : α) (f : α → Option β) :
    (if p then some x else none).bind f = if p then f x else none := by
  split <;> rfl

/-- A line that assembles to one command when its operands are in range has the sum of the command's fields in their
places (R60) as its word, and none otherwise. -/
theorem words_of_expand {line : Asm} {p : Prop} [Decidable p] {i : Instr} {op a : Byte} {h l : Word} {n : Nat}
    (hexpand : line.expand = if p then some [i] else none) (hencode : encode i = .command (commandWord op a h l))
    (hn : p → op.toNat * 2 ^ 40 + a.toNat * 2 ^ 32 + h.toNat * 2 ^ 16 + l.toNat = n) :
    line.words = if p then some [.command (BitVec.ofNat 48 n)] else none := by
  rw [Asm.words, hexpand]
  split
  · next hp =>
    have hword : commandWord op a h l = BitVec.ofNat 48 n := by
      rw [← hn hp, ← commandWord_toNat, BitVec.ofNat_toNat, BitVec.setWidth_eq]
    simp [hencode, hword]
  · rfl

/-- Settles O5: each line expands to its one command exactly when every operand is in range, and then each field of the
command's word is the number written. -/
theorem assemblerWordsAndRanges : Obligations.AssemblerWordsAndRanges := by
  refine ⟨fun p0 p1 => ?qtick, fun c v => ?qseed, fun c m => ?qmult, fun c => ?qread, fun b => ?crcbyte,
    fun s r n => ?frmrd, fun s r v => ?frmwr, fun b => ?rxpush, rfl, rfl, rfl, rfl, rfl⟩ <;>
    refine words_of_expand (by simp only [Asm.expand, operand, chanOperandOf_eq, Option.bind_eq_bind,
      Option.pure_def, ite_some_bind, ← ite_and]; rfl) rfl ?_
  case qtick =>
    rintro ⟨h0, h1⟩
    simp only [qtickOperand_toNat, BitVec.toNat_ofNat]
    omega
  case qseed =>
    rintro ⟨hc, hv⟩
    simp only [chanOperand_toNat hc, BitVec.toNat_ofNat]
    omega
  case qmult =>
    intro hc
    simp only [chanOperand_toNat hc, selectOperand_toNat, BitVec.toNat_ofNat]
    omega
  case qread =>
    intro hc
    simp only [chanOperand_toNat hc, BitVec.toNat_ofNat]
    omega
  case crcbyte | rxpush | frmrd | frmwr =>
    simp only [BitVec.toNat_ofNat]
    omega

/-- Bytes written as numbers are in range. -/
theorem byteOperands_toNat (bs : List Byte) : byteOperands (bs.map BitVec.toNat) = some bs := by
  induction bs with
  | nil => rfl
  | cons b bs ih =>
    have hb : operand 8 b.toNat = some b := by
      rw [operand, if_pos b.isLt, BitVec.ofNat_toNat, BitVec.setWidth_eq]
    rw [List.map_cons, byteOperands, hb, ih]

/-- Settles O6: the request pseudo-commands are the builder commands with the system's operands, and the byte sequences
are read whole. -/
theorem pseudoCommandsExpand : Obligations.PseudoCommandsExpand := by
  refine ⟨rfl, rfl, fun v => rfl, fun v => rfl, fun bs => ?rxframe, fun bs => ?crcof⟩
  case rxframe | crcof =>
    rw [Asm.expand, byteOperands_toNat]
    rfl

/-- Settles O1: the assembler evaluates on each line of R74, and the decoder on each word. -/
theorem sampleWordsDecode : Obligations.SampleWordsDecode := by
  unfold Obligations.SampleWordsDecode
  decide

/-! ### The request rows and the commands that build them -/

/-- A payload with its own CRC is a valid frame (R103, R105). -/
theorem frameValid_withCrc (payload : List Byte) : frameValid (withCrc payload) = true := by
  simp [frameValid, withCrc, withTrailer]

/-- Settles O44: the frame in `tx` is the row's payload with its own CRC, which is the row's encoding. -/
theorem builtRequestsAreWireFrames : Obligations.BuiltRequestsAreWireFrames :=
  ⟨fun slave reg n s => ⟨_, exec_frmrd s slave reg n, rfl, decode_encode (.mbReadReq slave reg n),
      frameValid_withCrc (requestPayload funcRead slave reg n)⟩,
    fun slave reg v s => ⟨_, exec_frmwr s slave reg v, rfl, decode_encode (.mbWriteReq slave reg v),
      frameValid_withCrc (requestPayload funcWrite slave reg v)⟩⟩

/-- Settles O55: the row and the command that builds it load `tx` with the same frame. -/
theorem requestRowsBuildTheirFrame : Obligations.RequestRowsBuildTheirFrame :=
  ⟨fun slave reg n s => ⟨_, exec_mbReadReq s slave reg n, exec_frmrd s slave reg n, rfl, rfl, rfl, rfl, rfl⟩,
    fun slave reg v s => ⟨_, exec_mbWriteReq s slave reg v, exec_frmwr s slave reg v, rfl, rfl, rfl, rfl, rfl⟩⟩

/-! ### The response rows and the commands that receive and parse them -/

/-- RXFRAME of R73 and one more instruction: the instruction runs on the received bytes. -/
theorem execAll_rxframe (s : State) (bytes : List Byte) (i : Instr) :
    execAll (.rxclr :: bytes.map .rxpush ++ [i]) s = exec i (s.clearRx.pushAll bytes) := by
  obtain ⟨t, ht, -⟩ := exec_next (s.clearRx.pushAll bytes) i
  rw [List.cons_append, execAll_cons s _ (exec_rxclr s), execAll_append s.clearRx (execAll_rxpush s.clearRx bytes),
    execAll_cons _ _ ht, ht, execAll_nil]

/-- A frame that fits the buffer is received whole: its bytes with zeros after them, their number, and no overflow
(R114, R115). -/
theorem receive_frame (s : State) (bytes : List Byte) {n : BitVec 4} (hlen : bytes.length = n.toNat) :
    (∀ k (hk : k < 15), (s.clearRx.pushAll bytes).rx[k] = bytes.getD k 0x00#8) ∧
    (s.clearRx.pushAll bytes).rxCnt = n ∧ (s.clearRx.pushAll bytes).rxOvf = false := by
  obtain ⟨hrx, hcnt, hovf⟩ := clearRx_pushAll_contents s bytes
  refine ⟨hrx, BitVec.eq_of_toNat_eq ?_, ?_⟩
  · omega
  · rw [hovf, decide_eq_false_iff_not]
    omega

/-- PARSE2 of a buffer that begins with a dual response: the verdict is the row's well-formedness, and the results are
the row's fields (R116). -/
theorem parseDual_frame {u : State} {slave func count : Byte} {v i crc : Word}
    (hrx : ∀ k (hk : k < 15), u.rx[k] = (withTrailer (dualPayload slave func count v i) crc).getD k 0x00#8) :
    u.parseDual = if WellFormed (.mbRead2Resp slave func count v i crc) then u.setDual v i else u.failParse := by
  have hok : dualOk u = WellFormed (.mbRead2Resp slave func count v i crc) := by
    rw [Bool.eq_iff_iff, dualOk_iff]
    simp [hrx, withTrailer, dualPayload, WellFormed]
  have hv : concat u.rx[3] u.rx[4] = v := by simp [hrx, withTrailer, dualPayload]
  have hi : concat u.rx[5] u.rx[6] = i := by simp [hrx, withTrailer, dualPayload]
  rw [State.parseDual, hok, hv, hi]

/-- PARSE1 of a buffer that begins with a single response: the verdict is the row's well-formedness, and the result is
the CC decode of its status low byte (R117). -/
theorem parseSingle_frame {u : State} {slave func count : Byte} {status crc : Word}
    (hrx : ∀ k (hk : k < 15), u.rx[k] = (withTrailer (singlePayload slave func count status) crc).getD k 0x00#8) :
    u.parseSingle = if WellFormed (.mbRead1Resp slave func count status crc)
      then u.setCc (ccDecode u.cfg (loByte status)) else u.failParse := by
  have hok : singleOk u = WellFormed (.mbRead1Resp slave func count status crc) := by
    rw [Bool.eq_iff_iff, singleOk_iff]
    simp [hrx, withTrailer, singlePayload, WellFormed]
  have hstatus : u.rx[4] = loByte status := by simp [hrx, withTrailer, singlePayload]
  rw [State.parseSingle, hok, hstatus]

/-- Settles O56: the row and the commands both parse the received bytes, and the parse writes only results. -/
theorem dualResponseRowIsReceivedAndParsed : Obligations.DualResponseRowIsReceivedAndParsed := by
  intro slave func count v i crc s
  obtain ⟨hrx, hcnt, hovf⟩ := receive_frame s (withTrailer (dualPayload slave func count v i) crc) (n := 9#4) rfl
  refine ⟨_, exec_mbRead2Resp s .., ⟨_, rfl, rfl, execAll_rxframe s _ .parse2, ?buffer⟩, ?registers⟩
  case buffer =>
    rw [parseDual_rx]
    exact fun k => hrx k k.isLt
  case registers =>
    rw [parseDual_frame hrx]
    generalize withTrailer (dualPayload slave func count v i) crc = bytes at hcnt hovf ⊢
    split <;> next hwf => simp [hwf, hcnt, hovf, State.decoderPart, State.restPart]

/-- Settles O57: as O56, with the CC decode for the two fields. -/
theorem singleResponseRowIsReceivedAndParsed : Obligations.SingleResponseRowIsReceivedAndParsed := by
  intro slave func count status crc s
  obtain ⟨hrx, hcnt, hovf⟩ :=
    receive_frame s (withTrailer (singlePayload slave func count status) crc) (n := 7#4) rfl
  refine ⟨_, exec_mbRead1Resp s .., ⟨_, rfl, rfl, execAll_rxframe s _ .parse1, ?buffer⟩, ?registers⟩
  case buffer =>
    rw [parseSingle_rx]
    exact fun k => hrx k k.isLt
  case registers =>
    rw [parseSingle_frame hrx]
    generalize withTrailer (singlePayload slave func count status) crc = bytes at hcnt hovf ⊢
    split <;> next hwf => simp [hwf, hcnt, hovf, loByte, State.decoderPart, State.restPart]

end Sys2Proof.Proofs

/-!
SUPPORT. The quadrature decoder (40_qdec.md): the invariant of the block and the bounds of every reachable state (R93),
which registers an instruction may write, the independence of decoder and framer (R94), the transition table (R83), the
decoder's commands (R84 to R90), and what a run of QTICKs gives on one channel (R91, R92).
-/

namespace Sys2Proof.Proofs

open Sys2Proof Sys2Proof.Machine

/-! ### The response rows, whatever bytes they receive -/

theorem pushAll_chan (s : State) (bytes : List Byte) (c : Chan) : (s.pushAll bytes).chan c = s.chan c := by
  cases c
  · exact pushAll_volt s bytes
  · exact pushAll_curr s bytes

theorem mbRead2Resp_receives {s t : State} {slave func count : Byte} {v i crc : Word}
    (h : exec (.mbRead2Resp slave func count v i crc) s = .next t) :
    ∃ bytes, t = (s.clearRx.pushAll bytes).parseDual :=
  ⟨_, (Host.Outcome.next.inj h).symm⟩

theorem mbRead1Resp_receives {s t : State} {slave func count : Byte} {status crc : Word}
    (h : exec (.mbRead1Resp slave func count status crc) s = .next t) :
    ∃ bytes, t = (s.clearRx.pushAll bytes).parseSingle :=
  ⟨_, (Host.Outcome.next.inj h).symm⟩

/-! ### The invariant of the block, operation by operation -/

section Invariant

variable {s : State}

@[simp] theorem inv_setCrc (c : Word) : (s.setCrc c).inv = s.inv := rfl
@[simp] theorem inv_setDual (v i : Word) : (s.setDual v i).inv = s.inv := rfl
@[simp] theorem inv_setCc (b : Bool) : (s.setCc b).inv = s.inv := rfl
@[simp] theorem inv_failParse : s.failParse.inv = s.inv := rfl
@[simp] theorem inv_cmdError : s.cmdError.inv = s.inv := rfl
@[simp] theorem inv_setInputs (l : List Input) : (s.setInputs l).inv = s.inv := rfl
@[simp] theorem inv_setRst (level : Bool) : (s.setRst level).inv = s.inv := rfl

@[simp] theorem inv_parseDual : s.parseDual.inv = s.inv := by
  rcases parseDual_cases s with ⟨-, e⟩ | ⟨-, e⟩ <;> simp [e]

@[simp] theorem inv_parseSingle : s.parseSingle.inv = s.inv := by
  rcases parseSingle_cases s with ⟨-, e⟩ | ⟨-, e⟩ <;> simp [e]

theorem setTick_inv (h : s.inv = true) {t : Nat} (ht : t < 2 ^ s.cfg.tickW) : (s.setTick t).inv = true := by
  obtain ⟨htable, hvolt, hcurr, -, hrd, hrx, htx⟩ := (state_inv_iff s).mp h
  exact (state_inv_iff _).mpr ⟨htable, hvolt, hcurr, ht, hrd, hrx, htx⟩

theorem setChan_inv (h : s.inv = true) (c : Chan) {ch : Channel} (hch : ch.inv s.cfg = true) :
    (s.setChan c ch).inv = true := by
  obtain ⟨htable, hvolt, hcurr, htick, hrd, hrx, htx⟩ := (state_inv_iff s).mp h
  cases c
  · exact (state_inv_iff _).mpr ⟨htable, hch, hcurr, htick, hrd, hrx, htx⟩
  · exact (state_inv_iff _).mpr ⟨htable, hvolt, hch, htick, hrd, hrx, htx⟩

/-- A snapshot takes its quiet flag from its own tick and reference (R19, R90). -/
theorem snapshot_inv (h : s.inv = true) (c : Chan) : (s.snapshot c).inv s.cfg = true := by
  obtain ⟨-, -, -, htick, -⟩ := (state_inv_iff s).mp h
  obtain ⟨hsp, -, href⟩ := (Channel.inv_iff s.cfg (s.chan c)).mp (chan_inv_of_inv h c)
  exact (ReadOut.inv_iff s.cfg _).mpr ⟨hsp, href, htick, rfl⟩

theorem setRd_inv (h : s.inv = true) {rd : ReadOut} (hrd : rd.inv s.cfg = true) : (s.setRd rd).inv = true := by
  obtain ⟨htable, hvolt, hcurr, htick, -, hrx, htx⟩ := (state_inv_iff s).mp h
  exact (state_inv_iff _).mpr ⟨htable, hvolt, hcurr, htick, hrd, hrx, htx⟩

theorem loadRequest_inv (h : s.inv = true) {func : Byte} (hfunc : func = funcRead ∨ func = funcWrite) (slave : Byte)
    (reg x : Word) : (s.loadTx (requestFrame func slave reg x)).inv = true := by
  obtain ⟨htable, hvolt, hcurr, htick, hrd, hrx, -⟩ := (state_inv_iff s).mp h
  exact (state_inv_iff _).mpr ⟨htable, hvolt, hcurr, htick, hrd, hrx, txInv_loadTx s func slave reg x hfunc⟩

theorem clearRx_inv (h : s.inv = true) : s.clearRx.inv = true := by
  obtain ⟨htable, hvolt, hcurr, htick, hrd, -, htx⟩ := (state_inv_iff s).mp h
  exact (state_inv_iff _).mpr ⟨htable, hvolt, hcurr, htick, hrd, rxTailZero_clearRx s, htx⟩

theorem pushAll_inv (h : s.inv = true) (bytes : List Byte) : (s.pushAll bytes).inv = true := by
  obtain ⟨htable, hvolt, hcurr, htick, hrd, hrx, htx⟩ := (state_inv_iff s).mp h
  have htx' : txInv (s.pushAll bytes) = txInv s := by simp [txInv]
  exact (state_inv_iff _).mpr ⟨by simpa, by simpa, by simpa, by simpa, by simpa, rxTailZero_pushAll s bytes hrx,
    htx'.trans htx⟩

/-- QTICK keeps the invariant: the new tick fits TICK_W bits, and each channel ticks within its bounds. -/
theorem qtick_inv (h : s.inv = true) (p0 p1 : Pattern) {t : State} (e : exec (.qtick p0 p1) s = .next t) :
    t.inv = true := by
  obtain ⟨htable, hvolt, hcurr, -⟩ := (state_inv_iff s).mp h
  have htick := nextTick_lt s.cfg s.tick
  cases e
  exact setChan_inv (setChan_inv (setTick_inv h htick) .voltage (tickWith_inv htable htick p0 hvolt)) .current
    (tickWith_inv htable htick p1 hcurr)

/-- QSEED keeps a channel's bounds: the seeded value is clamped (R88). -/
theorem seeded_inv (h : s.inv = true) (c : Chan) (v : Word) :
    ({ s.chan c with sp := clampSp (v.toNat : Int) } : Channel).inv s.cfg = true := by
  obtain ⟨-, hevt, href⟩ := (Channel.inv_iff s.cfg (s.chan c)).mp (chan_inv_of_inv h c)
  exact (Channel.inv_iff s.cfg _).mpr ⟨clampSp_le _, hevt, href⟩

/-- Every instruction keeps the invariant. -/
theorem exec_inv (h : s.inv = true) {i : Instr} {t : State} (e : exec i s = .next t) : t.inv = true := by
  cases i with
  | qtick p0 p1 => exact qtick_inv h p0 p1 e
  | nop => cases e; exact h
  | qseed c v => cases e; exact setChan_inv h c (seeded_inv h c v)
  | qmult c m => cases e; exact setChan_inv h c (chan_inv_of_inv h c)
  | qread c => cases e; exact setRd_inv h (snapshot_inv h c)
  | crcinit | crcbyte => cases e; simpa using h
  | frmrd | mbReadReq => cases e; exact loadRequest_inv h (.inl rfl) ..
  | frmwr | mbWriteReq => cases e; exact loadRequest_inv h (.inr rfl) ..
  | rxclr => cases e; exact clearRx_inv h
  | rxpush b => cases e; exact pushAll_inv h [b]
  | parse2 | parse1 => cases e; simpa using h
  | mbRead2Resp =>
    obtain ⟨bytes, rfl⟩ := mbRead2Resp_receives e
    simpa using pushAll_inv (clearRx_inv h) bytes
  | mbRead1Resp =>
    obtain ⟨bytes, rfl⟩ := mbRead1Resp_receives e
    simpa using pushAll_inv (clearRx_inv h) bytes

end Invariant

/-- The state of R160 meets the invariant when the table is allowed. -/
theorem resetWith_inv {cfg : Config} (h : tableOk cfg.qtable = true) (inputs : List Input) :
    (State.resetWith cfg inputs).inv = true := by
  have hpos : 0 < 2 ^ cfg.tickW := Nat.two_pow_pos _
  have hch : Channel.reset.inv cfg = true := (Channel.inv_iff cfg _).mpr ⟨by decide, by decide, hpos⟩
  have hquiet : false = quietFlag cfg 0 0 := by simp [quietFlag, elapsed, quietTicks]
  have hrd : ReadOut.reset.inv cfg = true := (ReadOut.inv_iff cfg _).mpr ⟨by decide, hpos, hpos, hquiet⟩
  have hrx : rxTailZero (State.resetWith cfg inputs) = true := (rxTailZero_iff _).mpr fun i hi _ => by simp
  exact (state_inv_iff _).mpr ⟨h, hch, hch, hpos, hrd, hrx, rfl⟩

theorem driveRst_inv {s : State} (h : s.inv = true) (level : Bool) : (s.driveRst level).inv = true := by
  obtain ⟨htable, -⟩ := (state_inv_iff s).mp h
  rcases driveRst_cases s level with ⟨-, e⟩ | ⟨-, -, e⟩ | ⟨-, -, e⟩ <;> rw [e]
  · exact h
  · exact resetWith_inv htable s.inputs
  · exact h

theorem takeInput_inv {s t : State} {inp : Input} (h : s.inv = true) (e : s.takeInput inp = .next t) :
    t.inv = true := by
  rcases takeInput_cases s e with
    ⟨level, -, rfl⟩ | ⟨_, _, -, -, rfl⟩ | ⟨_, _, i, -, -, -, hexec⟩ | ⟨_, _, _, -, -, -, rfl⟩
  · exact driveRst_inv h level
  · exact h
  · exact exec_inv h hexec
  · exact h

/-- Settles O18: a step waits or takes one input, and whatever an input does keeps every part of the invariant. -/
theorem stepKeepsBlockInvariant : Obligations.StepKeepsBlockInvariant := by
  intro s t h e
  obtain ⟨-, ⟨-, rfl⟩ | ⟨inp, rest, -, htake⟩⟩ := step_cases s e
  · exact h
  · exact takeInput_inv (s := s.setInputs rest) h htake

/-- Every reachable state meets the invariant, by induction on the run. -/
theorem reachable_inv {s : State} (h : Reachable s) : s.inv = true := by
  induction h with
  | reset cfg inputs ok => exact resetWith_inv ok inputs
  | arrive s more _ ih => exact ih
  | step s t _ e ih => exact stepKeepsBlockInvariant s t ih e

/-- Settles O19: the bounds are a part of the invariant. -/
theorem reachableSetpointsInRange : Obligations.ReachableSetpointsInRange := by
  intro s h c
  obtain ⟨hsp, hevt, -⟩ := (Channel.inv_iff s.cfg (s.chan c)).mp (chan_inv_of_inv (reachable_inv h) c)
  exact ⟨hsp, hevt⟩

/-! ### The writers of each register -/

/-- QSEED writes no register of a channel but the setpoint (R88). -/
theorem qseed_chan {s t : State} {c : Chan} {v : Word} (h : exec (.qseed c v) s = .next t) (d : Chan) :
    (t.chan d).qs = (s.chan d).qs ∧ (t.chan d).evt = (s.chan d).evt ∧ (t.chan d).ref = (s.chan d).ref ∧
      (t.chan d).mul = (s.chan d).mul := by
  cases h
  cases c <;> cases d <;> exact ⟨rfl, rfl, rfl, rfl⟩

/-- QMULT writes no register of a channel but the multiplier select (R89). -/
theorem qmult_chan {s t : State} {c : Chan} {m : Bool} (h : exec (.qmult c m) s = .next t) (d : Chan) :
    (t.chan d).qs = (s.chan d).qs ∧ (t.chan d).evt = (s.chan d).evt ∧ (t.chan d).sp = (s.chan d).sp ∧
      (t.chan d).ref = (s.chan d).ref := by
  cases h
  cases c <;> cases d <;> exact ⟨rfl, rfl, rfl, rfl⟩

/-- QTICK ticks each channel with the pattern it carries for it, and writes nothing else but `tick` (R85). -/
theorem qtick_next {s t : State} {p0 p1 : Pattern} (h : exec (.qtick p0 p1) s = .next t) :
    t.tick = nextTick s.cfg s.tick ∧ (∀ c, t.chan c = (s.chan c).tickWith s.cfg t.tick (patternOf p0 p1 c)) ∧
      t.rd = s.rd ∧ t.framerPart = s.framerPart ∧ t.restPart = s.restPart := by
  cases h
  refine ⟨rfl, fun c => ?_, rfl, rfl, rfl⟩
  cases c <;> rfl

/-- Settles O20: an instruction's new state differs from the old one only in the registers its operation writes. -/
theorem registersChangeOnlyByTheirWriters : Obligations.RegistersChangeOnlyByTheirWriters := by
  intro i s t h
  cases i with
  | qtick p0 p1 =>
    obtain ⟨-, hchan, hrd, hframer, -⟩ := qtick_next h
    simp only [State.framerPart, FramerPart.mk.injEq] at hframer
    simp [mnemonicOf, hchan, hrd, hframer]
  | qseed c v =>
    have hchan := qseed_chan h
    cases h
    simp [mnemonicOf, hchan]
  | qmult c m =>
    have hchan := qmult_chan h
    cases h
    simp [mnemonicOf, hchan]
  | mbRead2Resp =>
    obtain ⟨bytes, rfl⟩ := mbRead2Resp_receives h
    simp [mnemonicOf, pushAll_chan]
  | mbRead1Resp =>
    obtain ⟨bytes, rfl⟩ := mbRead1Resp_receives h
    simp [mnemonicOf, pushAll_chan]
  | _ => cases h; simp [mnemonicOf]

/-! ### Decoder and framer -/

/-- Replace the decoder's registers. -/
def setDecoder (s : State) (d : DecoderPart) : State :=
  { s with volt := d.volt, curr := d.curr, tick := d.tick, rd := d.rd }

/-- Replace the CRC generator's and the framer's registers. -/
def setFramer (s : State) (f : FramerPart) : State :=
  { s with crc := f.crc, tx := f.tx, txValid := f.txValid, rx := f.rx, rxCnt := f.rxCnt, rxOvf := f.rxOvf,
           resV := f.resV, resI := f.resI, resCc := f.resCc, parseOk := f.parseOk }

theorem setDecoder_self (s : State) : setDecoder s s.decoderPart = s := rfl

theorem setFramer_self (s : State) : setFramer s s.framerPart = s := rfl

theorem setDecoder_eq_of {s t : State} (hf : t.framerPart = s.framerPart) (hr : t.restPart = s.restPart)
    (d : DecoderPart) : setDecoder t d = setDecoder s d :=
  state_ext rfl hf hr

theorem setFramer_eq_of {s t : State} (hd : t.decoderPart = s.decoderPart) (hr : t.restPart = s.restPart)
    (f : FramerPart) : setFramer t f = setFramer s f :=
  state_ext hd rfl hr

theorem pushRx_setDecoder (s : State) (b : Byte) (d : DecoderPart) :
    (setDecoder s d).pushRx b = setDecoder (s.pushRx b) d := by
  have hroom : rxHasRoom (setDecoder s d) = rxHasRoom s := rfl
  unfold State.pushRx
  rw [hroom]
  cases rxHasRoom s <;> rfl

theorem pushAll_setDecoder (s : State) (bytes : List Byte) (d : DecoderPart) :
    (setDecoder s d).pushAll bytes = setDecoder (s.pushAll bytes) d := by
  induction bytes generalizing s with
  | nil => rfl
  | cons b bs ih => rw [pushAll_cons, pushAll_cons, pushRx_setDecoder, ih]

/-- Receiving a frame into a cleared buffer does not look at the decoder. -/
theorem receive_setDecoder (s : State) (bytes : List Byte) (d : DecoderPart) :
    (setDecoder s d).clearRx.pushAll bytes = setDecoder (s.clearRx.pushAll bytes) d :=
  pushAll_setDecoder s.clearRx bytes d

theorem parseDual_setDecoder (s : State) (d : DecoderPart) : (setDecoder s d).parseDual = setDecoder s.parseDual d := by
  have hok : dualOk (setDecoder s d) = dualOk s := rfl
  unfold State.parseDual
  rw [hok]
  cases dualOk s <;> rfl

theorem parseSingle_setDecoder (s : State) (d : DecoderPart) :
    (setDecoder s d).parseSingle = setDecoder s.parseSingle d := by
  have hok : singleOk (setDecoder s d) = singleOk s := rfl
  unfold State.parseSingle
  rw [hok]
  cases singleOk s <;> rfl

/-- A decoder command leaves the framer and does the same whatever the framer holds (R94). -/
theorem exec_decoder {i : Instr} (hi : isDecoder i = true) (s : State) : ∃ t, exec i s = .next t ∧
    t.framerPart = s.framerPart ∧ t.restPart = s.restPart ∧
    ∀ f, exec i (setFramer s f) = .next (setFramer t f) := by
  cases i with
  | nop | qtick => exact ⟨_, rfl, rfl, rfl, fun f => rfl⟩
  | qseed c | qmult c | qread c =>
    refine ⟨_, rfl, ?_, ?_, fun f => ?_⟩ <;> cases c <;> rfl
  | _ => cases hi

/-- Any other instruction leaves the decoder and does the same whatever the decoder holds (R94). -/
theorem exec_framer {i : Instr} (hi : isDecoder i = false) (s : State) : ∃ t, exec i s = .next t ∧
    t.decoderPart = s.decoderPart ∧ t.restPart = s.restPart ∧
    ∀ d, exec i (setDecoder s d) = .next (setDecoder t d) := by
  cases i with
  | nop | qtick | qseed | qmult | qread => cases hi
  | crcinit | crcbyte | frmrd | frmwr | mbReadReq | mbWriteReq | rxclr => exact ⟨_, rfl, rfl, rfl, fun d => rfl⟩
  | rxpush b =>
    refine ⟨_, rfl, ?_, ?_, fun d => congrArg Host.Outcome.next (pushRx_setDecoder s b d)⟩ <;>
      simp [State.decoderPart, State.restPart]
  | parse2 =>
    refine ⟨_, rfl, ?_, ?_, fun d => congrArg Host.Outcome.next (parseDual_setDecoder s d)⟩ <;>
      simp [State.decoderPart, State.restPart]
  | parse1 =>
    refine ⟨_, rfl, ?_, ?_, fun d => congrArg Host.Outcome.next (parseSingle_setDecoder s d)⟩ <;>
      simp [State.decoderPart, State.restPart]
  | mbRead2Resp =>
    refine ⟨_, exec_mbRead2Resp s .., ?_, ?_, fun d => (exec_mbRead2Resp (setDecoder s d) ..).trans ?_⟩
    · simp [State.decoderPart]
    · simp [State.restPart]
    · rw [receive_setDecoder, parseDual_setDecoder]
  | mbRead1Resp =>
    refine ⟨_, exec_mbRead1Resp s .., ?_, ?_, fun d => (exec_mbRead1Resp (setDecoder s d) ..).trans ?_⟩
    · simp [State.decoderPart]
    · simp [State.restPart]
    · rw [receive_setDecoder, parseSingle_setDecoder]

/-- A sequence and its two halves side by side: the decoder commands alone, from any framer, reach the same decoder, and
the others alone, from any decoder, reach the same framer. -/
theorem execAll_halves (d : DecoderPart) (f : FramerPart) (is : List Instr) (s : State) : ∃ t,
    execAll is s = .next t ∧ t.restPart = s.restPart ∧
    execAll (is.filter (fun i => isDecoder i)) (setFramer s f) = .next (setFramer t f) ∧
    execAll (is.filter (fun i => !isDecoder i)) (setDecoder s d) = .next (setDecoder t d) := by
  induction is generalizing s with
  | nil => exact ⟨s, rfl, rfl, rfl, rfl⟩
  | cons i is ih =>
    cases hi : isDecoder i with
    | true =>
      obtain ⟨u, hu, hframer, hrest, hdecode⟩ := exec_decoder hi s
      obtain ⟨t, ht, hrest', hd, hf⟩ := ih u
      refine ⟨t, (execAll_cons s is hu).trans ht, hrest'.trans hrest, ?_, ?_⟩
      · rw [List.filter_cons_of_pos hi, execAll_cons _ _ (hdecode f), hd]
      · rw [List.filter_cons_of_neg (by simp [hi]), ← setDecoder_eq_of hframer hrest, hf]
    | false =>
      obtain ⟨u, hu, hdecoder, hrest, hframe⟩ := exec_framer hi s
      obtain ⟨t, ht, hrest', hd, hf⟩ := ih u
      refine ⟨t, (execAll_cons s is hu).trans ht, hrest'.trans hrest, ?_, ?_⟩
      · rw [List.filter_cons_of_neg (by simp [hi]), ← setFramer_eq_of hdecoder hrest, hd]
      · rw [List.filter_cons_of_pos (by simp [hi]), execAll_cons _ _ (hframe d), hf]

/-- Settles O22: each half runs beside the whole sequence, with the other part as it was at the start. -/
theorem decoderAndFramerAreIndependent : Obligations.DecoderAndFramerAreIndependent := by
  intro is s
  obtain ⟨t, ht, hrest, hd, hf⟩ := execAll_halves s.decoderPart s.framerPart is s
  rw [setFramer_self] at hd
  rw [setDecoder_self] at hf
  exact ⟨t, _, _, ht, hd, hf, rfl, rfl, hrest⟩

/-! ### The transition table -/

/-- I1 and I3 of R83 for every entry: an entry stored in a row is the one its state and pattern look up. -/
theorem tableOk_iff (t : QTable) : tableOk t = true ↔ ∀ q p, entryOk (lookup t q p) = true := by
  refine ⟨lookup_ok, fun h => ?_⟩
  simp only [tableOk, List.all_eq_true, Vector.mem_toList_iff, Vector.mem_iff_getElem]
  rintro _ ⟨q, hq, rfl⟩ _ ⟨p, hp, rfl⟩
  exact h ⟨q, hq⟩ ⟨p, hp⟩

theorem entryOk_iff (e : Byte) : entryOk e = true ↔ e.extractLsb' 4 2 ≠ 0b11#2 ∧ e.extractLsb' 6 2 = 0#2 := by
  simp [entryOk, entryFlags]

theorem step_of_badTable {s : State} (h : tableOk s.cfg.qtable = false) : step s = .refused .badTransitionTable := by
  simp [step, State.advance, h]

/-- P1 and P2 of R83. -/
theorem defaultTable_rest : ∀ x ∈ restPatterns,
    lookup defaultTable x.1 x.2 = x.1.setWidth 8 ∧ lookup defaultTable x.1 (~~~ x.2) = 0x00#8 := by
  decide

/-- P3 of R83. -/
theorem defaultTable_event_start : ∀ (q : BitVec 4) (p : Pattern),
    (lookup defaultTable q p).extractLsb' 4 2 ≠ 0#2 → (lookup defaultTable q p).extractLsb' 0 4 = 0#4 := by
  decide

/-- The nine unused states of R82 all return to START. -/
theorem defaultTable_unused : ∀ (q : BitVec 4) (p : Pattern),
    7 ≤ q.toNat → entryNext (lookup defaultTable q p) = 0x0#4 := by
  decide

/-- Settles O26: `tableOk` checks the two conditions of every entry, and the 64 entries of the default table are
checked one by one. -/
theorem transitionTableInvariants : Obligations.TransitionTableInvariants :=
  ⟨fun t => (tableOk_iff t).trans (forall₂_congr fun q p => entryOk_iff (lookup t q p)), by decide,
    fun x hx => (defaultTable_rest x hx).1, fun x hx => (defaultTable_rest x hx).2, defaultTable_event_start,
    fun _ => step_of_badTable⟩

/-! ### QTICK and ApplyEvent -/

/-- The flag pair of an event in a direction, clockwise when `cw` (R65). -/
def eventFlags (cw : Bool) : BitVec 2 := if cw then 0b01#2 else 0b10#2

/-- The sign of the step in a direction (R86). -/
def eventSign (cw : Bool) : Int := if cw then 1 else -1

/-- ApplyEvent: an event moves the setpoint by one step, clamped, and stamps the reference (R86). -/
theorem tickWith_of_event {cfg : Config} {ch : Channel} {p : Pattern} {cw : Bool}
    (h : entryFlags (lookup cfg.qtable ch.qs p) = eventFlags cw) (t : Nat) :
    (ch.tickWith cfg t p).sp = clampSp (ch.sp.toNat + eventSign cw * stepSize ch.mul) ∧
      (ch.tickWith cfg t p).ref = t := by
  obtain ⟨hcw, hccw, -⟩ := entryFlags_eq_iff (lookup cfg.qtable ch.qs p)
  cases cw with
  | true => simp [Channel.tickWith, Channel.applyEvent, hcw.mp h, eventSign]
  | false => simp [Channel.tickWith, Channel.applyEvent, hccw.mp h, eventSign]

/-- Without an event a tick leaves the setpoint and the reference (R85). -/
theorem tickWith_of_noEvent {cfg : Config} {ch : Channel} {p : Pattern}
    (h : entryFlags (lookup cfg.qtable ch.qs p) = 0b00#2) (t : Nat) :
    (ch.tickWith cfg t p).sp = ch.sp ∧ (ch.tickWith cfg t p).ref = ch.ref := by
  obtain ⟨-, -, hnone⟩ := entryFlags_eq_iff (lookup cfg.qtable ch.qs p)
  simp [Channel.tickWith, hnone.mp h]

theorem patternOf_eq (p0 p1 : Pattern) (c : Chan) : patternOf p0 p1 c = if c = .voltage then p0 else p1 := by
  cases c <;> rfl

/-- An entry of an allowed table with a flag set has exactly one of the two events (R83, I1). -/
theorem event_of_flag {t : QTable} (ht : tableOk t = true) (q : BitVec 4) (p : Pattern) :
    (entryCw (lookup t q p) = true → entryFlags (lookup t q p) = eventFlags true) ∧
    (entryCcw (lookup t q p) = true → entryFlags (lookup t q p) = eventFlags false) := by
  have hone := entryOk_flags (lookup_ok ht q p)
  obtain ⟨hcw, hccw, -⟩ := entryFlags_eq_iff (lookup t q p)
  exact ⟨fun h => hcw.mpr ⟨h, by simpa [h] using hone⟩, fun h => hccw.mpr ⟨by simpa [h] using hone, h⟩⟩

/-- Settles O27: each channel's part is the one of `tickWith`, by the three cases of its entry's flags. -/
theorem qtickResult : Obligations.QtickResult := by
  intro p0 p1 s htable
  refine ⟨rfl, ?_⟩
  obtain ⟨t, ht, -⟩ := exec_next s (.qtick p0 p1)
  obtain ⟨htick, hchan, hrd, hframer, hrest⟩ := qtick_next ht
  refine ⟨t, ht, htick, fun c => ?_, hrd, hframer, hrest⟩
  rw [hchan c, ← patternOf_eq]
  obtain ⟨hcw, hccw⟩ := event_of_flag htable (s.chan c).qs (patternOf p0 p1 c)
  refine ⟨tickWith_qs .., tickWith_evt .., tickWith_mul .., fun h => ?cw, fun h => ?ccw, fun h0 h1 => ?none,
    fun hdefault hunused => ?unused⟩
  case cw =>
    obtain ⟨hsp, href⟩ := tickWith_of_event (hcw h) t.tick
    refine ⟨?_, href⟩
    rw [hsp, clampSp_toNat]
    cases (s.chan c).mul <;> rfl
  case ccw =>
    obtain ⟨hsp, href⟩ := tickWith_of_event (hccw h) t.tick
    refine ⟨?_, href⟩
    rw [hsp, clampSp_toNat]
    cases (s.chan c).mul <;> rfl
  case none =>
    obtain ⟨-, -, hnone⟩ := entryFlags_eq_iff (lookup s.cfg.qtable (s.chan c).qs (patternOf p0 p1 c))
    exact tickWith_of_noEvent (hnone.mpr ⟨h0, h1⟩) t.tick
  case unused =>
    rw [tickWith_qs, hdefault, defaultTable_unused _ _ hunused]

/-- The six rows of R87: setpoint before, select, clockwise or not, setpoint after. -/
def cornerRows : List (Word × Bool × Bool × Word) :=
  [(4995#16, true, true, 5000#16), (5000#16, false, true, 5000#16), (3#16, true, false, 0#16),
    (0#16, false, false, 0#16), (1200#16, true, true, 1210#16), (1200#16, false, false, 1199#16)]

theorem cornerRows_sum : ∀ row ∈ cornerRows,
    min 5000 (max 0 ((row.1.toNat : Int) + eventSign row.2.2.1 * stepSize row.2.1)) = row.2.2.2.toNat := by
  simp [cornerRows, eventSign, stepSize]

theorem clampSp_eq_of_toNat {v : Int} {w : Word} (h : min 5000 (max 0 v) = w.toNat) : clampSp v = w :=
  BitVec.eq_of_toNat_eq (Int.ofNat_inj.mp ((clampSp_toNat v).trans h))

/-- Two flags that are neither clear nor both set are those of one event. -/
theorem eventFlags_of_ne : ∀ f : BitVec 2, f ≠ 0b00#2 → f ≠ 0b11#2 → ∃ cw, f = eventFlags cw := by
  decide

/-- QTICK answers a state in which channel `c` has ticked with the pattern QTICK carries for it. -/
theorem exec_qtick_chan (p0 p1 : Pattern) (s : State) (c : Chan) : ∃ t, exec (.qtick p0 p1) s = .next t ∧
    t.chan c = (s.chan c).tickWith s.cfg t.tick (patternOf p0 p1 c) := by
  obtain ⟨t, ht, -⟩ := exec_next s (.qtick p0 p1)
  obtain ⟨-, hchan, -⟩ := qtick_next ht
  exact ⟨t, ht, hchan c⟩

/-- Settles O28: an event's setpoint is the clamped sum, which the six rows evaluate and the clamp bounds. -/
theorem applyEventCornerCases : Obligations.ApplyEventCornerCases := by
  refine ⟨fun row hrow p0 p1 s c _ hsp hmul hflags => ?rows, fun p0 p1 s c htable hflags => ?bound⟩
  case rows =>
    obtain ⟨t, ht, hchan⟩ := exec_qtick_chan p0 p1 s c
    rw [← patternOf_eq] at hflags
    obtain ⟨hsp', href⟩ := tickWith_of_event (cw := row.2.2.1) hflags t.tick
    refine ⟨t, ht, ?_, by rw [hchan, href]⟩
    rw [hchan, hsp', hsp, hmul, clampSp_eq_of_toNat (cornerRows_sum row hrow)]
  case bound =>
    obtain ⟨t, ht, hchan⟩ := exec_qtick_chan p0 p1 s c
    rw [← patternOf_eq] at hflags
    obtain ⟨hone, -⟩ := (entryOk_iff _).mp (lookup_ok htable (s.chan c).qs (patternOf p0 p1 c))
    obtain ⟨cw, hcw⟩ := eventFlags_of_ne _ hflags hone
    obtain ⟨hsp, -⟩ := tickWith_of_event hcw t.tick
    refine ⟨t, ht, ?_⟩
    rw [hchan, hsp]
    exact clampSp_le _

/-! ### NOP, QSEED, QMULT and QREAD -/

/-- A word whose operation code is a row's of R61, with a reserved bit of the row set, is illegal (R66). -/
theorem decode_reserved {w : CmdWord} {r : OpRow} (hrow : r ∈ opRows (aField w) (hField w) (lField w))
    (hop : r.op = opField w) (hclear : r.clear = false) : decode (.command w) = .error .reservedNotZero := by
  have hfind := (find_row (op := opField w) (by rw [opRows_ops]; decide)).mpr ⟨hrow, hop⟩
  simp [decode, decodeCommand, decodeFields, hfind, hclear]

/-- Settles O25: with op 0, only the word whose other fields are zero too has the reserved bits of NOP zero. -/
theorem nopChangesNothing : Obligations.NopChangesNothing := by
  refine ⟨rfl, exec_nop, fun w hop hne => decode_reserved (.head _) hop.symm ?_⟩
  refine Bool.eq_false_iff.mpr fun hzero => hne ?_
  simp only [Bool.and_eq_true, beq_iff_eq] at hzero
  obtain ⟨⟨ha, hh⟩, hl⟩ := hzero
  rw [← commandWord_fields w, opField, hop, ha, hh, hl]
  rfl

theorem chanOperand_eq (c : Chan) : chanOperand c = 0#7 ++ (if c = .voltage then 0#1 else 1#1) := by
  cases c <;> rfl

/-- Writing one channel leaves the other, the tick, the latch, the framer and the rest. -/
theorem setChan_frame (s : State) (c : Chan) (ch : Channel) : (∀ d, d ≠ c → (s.setChan c ch).chan d = s.chan d) ∧
    (s.setChan c ch).tick = s.tick ∧ (s.setChan c ch).rd = s.rd ∧ (s.setChan c ch).framerPart = s.framerPart ∧
    (s.setChan c ch).restPart = s.restPart :=
  ⟨fun d hd => setChan_chan_other s c d ch hd, by cases c <;> exact ⟨rfl, rfl, rfl, rfl⟩⟩

theorem clampSp_word_toNat (v : Word) : (clampSp (v.toNat : Int)).toNat = min v.toNat 5000 := by
  have := clampSp_toNat (v.toNat : Int)
  omega

/-- Settles O30: one channel is written, with its setpoint alone replaced by the clamped value. -/
theorem qseedResult : Obligations.QseedResult := by
  intro c v s
  rw [← chanOperand_eq]
  refine ⟨rfl, _, exec_qseed s c v, ?_⟩
  rw [setChan_chan_same]
  exact ⟨clampSp_word_toNat v, rfl, rfl, rfl, rfl, setChan_frame s c _⟩

/-- Bit 0 alone is no select of 2 or more: a reserved bit of QMULT's `l` is set. -/
theorem selectReserved_ne_zero {l : Word} (h : 2 ≤ l.toNat) : l.extractLsb' 1 15 ≠ 0#15 := by
  intro hzero
  have hdiv := congrArg BitVec.toNat hzero
  have := l.isLt
  simp only [BitVec.extractLsb'_toNat, Nat.shiftRight_eq_div_pow, BitVec.toNat_ofNat] at hdiv
  omega

/-- Settles O31: one channel is written, with its select alone replaced; a larger `l` has a reserved bit set. -/
theorem qmultResult : Obligations.QmultResult := by
  refine ⟨fun c m s => ?result, fun w hop hl => ?illegal⟩
  case result =>
    rw [← chanOperand_eq]
    refine ⟨by cases m <;> rfl, _, exec_qmult s c m, ?_⟩
    rw [setChan_chan_same]
    exact ⟨rfl, rfl, rfl, rfl, rfl, rfl, setChan_frame s c _⟩
  case illegal =>
    refine decode_reserved (.tail _ (.tail _ (.tail _ (.head _)))) hop.symm ?_
    simp only [Bool.and_eq_false_iff, beq_eq_false_iff_ne]
    exact .inr (selectReserved_ne_zero hl)

/-- Settles O32: the latch is the snapshot of the state QREAD finds. -/
theorem qreadResult : Obligations.QreadResult := by
  intro c s
  rw [← chanOperand_eq]
  exact ⟨rfl, _, exec_qread s c, rfl, rfl, rfl, rfl, quietFlag_iff s.cfg s.tick (s.chan c).ref, setRd_chan s _,
    rfl, rfl, rfl⟩

/-! ### A run of QTICKs, as one channel sees it -/

/-- The encoder state after a list of patterns, from state `q`. -/
def endState (t : QTable) (q : BitVec 4) (ps : List Pattern) : BitVec 4 :=
  ps.foldl (fun q p => entryNext (lookup t q p)) q

/-- The direction latch after each pattern of a list, from state `q`. -/
def latches (t : QTable) : BitVec 4 → List Pattern → List (BitVec 2)
  | _, [] => []
  | q, p :: ps => entryFlags (lookup t q p) :: latches t (entryNext (lookup t q p)) ps

theorem latches_append (t : QTable) (q : BitVec 4) (ps qs : List Pattern) :
    latches t q (ps ++ qs) = latches t q ps ++ latches t (endState t q ps) qs := by
  induction ps generalizing q with
  | nil => rfl
  | cons p ps ih => simp [latches, endState, ih]

theorem endState_append (t : QTable) (q : BitVec 4) (ps qs : List Pattern) :
    endState t q (ps ++ qs) = endState t (endState t q ps) qs :=
  List.foldl_append

/-- QTICKs with the given pairs of patterns, channel 0's first. -/
def qticks (l : List (Pattern × Pattern)) : List Instr := l.map fun x => .qtick x.1 x.2

/-- The patterns a run of QTICKs carries for a channel. -/
def patternsOf (c : Chan) (l : List (Pattern × Pattern)) : List Pattern := l.map fun x => patternOf x.1 x.2 c

/-- A run of QTICKs takes a channel through the table by the channel's own patterns alone; when none of its latches
holds an event, its setpoint and reference stay. -/
theorem execAll_qticks (c : Chan) (l : List (Pattern × Pattern)) (s : State) : ∃ t,
    execAll (qticks l) s = .next t ∧
    (t.chan c).qs = endState s.cfg.qtable (s.chan c).qs (patternsOf c l) ∧
    evtTrace c (qticks l) s = latches s.cfg.qtable (s.chan c).qs (patternsOf c l) ∧
    ((∀ e ∈ evtTrace c (qticks l) s, e = 0b00#2) →
      (t.chan c).sp = (s.chan c).sp ∧ (t.chan c).ref = (s.chan c).ref) := by
  induction l generalizing s with
  | nil => exact ⟨s, rfl, rfl, rfl, fun _ => ⟨rfl, rfl⟩⟩
  | cons x l ih =>
    obtain ⟨u, hu, hcfg, -⟩ := exec_next s (.qtick x.1 x.2)
    obtain ⟨-, hchan, -⟩ := qtick_next hu
    obtain ⟨t, ht, hqs, htrace, hkeep⟩ := ih u
    have htrace' : evtTrace c (qticks (x :: l)) s = (u.chan c).evt :: evtTrace c (qticks l) u := by
      simp only [qticks, List.map_cons, evtTrace, hu]
    refine ⟨t, (execAll_cons s _ hu).trans ht, ?_, ?_, fun hnone => ?_⟩
    · rw [hqs, hcfg, hchan, tickWith_qs]
      rfl
    · rw [htrace', htrace, hcfg, hchan, tickWith_qs, tickWith_evt]
      rfl
    · rw [htrace', List.forall_mem_cons, hchan, tickWith_evt] at hnone
      obtain ⟨hsp, href⟩ := hkeep hnone.2
      obtain ⟨hsp', href'⟩ := tickWith_of_noEvent hnone.1 u.tick
      rw [hsp, href, hchan]
      exact ⟨hsp', href'⟩

/-- The pair of patterns with `p` for channel `c` and `q` for the other. -/
def pairOn : Chan → Pattern → Pattern → Pattern × Pattern
  | .voltage, p, q => (p, q)
  | .current, p, q => (q, p)

theorem tickOn_eq_qtick (c : Chan) (p q : Pattern) : tickOn c p q = .qtick (pairOn c p q).1 (pairOn c p q).2 := by
  cases c <;> rfl

theorem patternOf_pairOn (c : Chan) (p q : Pattern) : patternOf (pairOn c p q).1 (pairOn c p q).2 c = p := by
  cases c <;> rfl

/-- A run on one channel is a run of QTICKs that carries the channel's patterns, whatever the other channel sees. -/
theorem ticksOn_eq_qticks (c : Chan) (ps qs : List Pattern) :
    ∃ l, ticksOn c ps qs = qticks l ∧ patternsOf c l = ps := by
  induction ps generalizing qs with
  | nil => exact ⟨[], rfl, rfl⟩
  | cons p ps ih =>
    obtain ⟨l, hl, hps⟩ := ih qs.tail
    have hcons : ticksOn c (p :: ps) qs = tickOn c p (qs.headD 0b11#2) :: ticksOn c ps qs.tail := by cases qs <;> rfl
    refine ⟨pairOn c p (qs.headD 0b11#2) :: l, ?_, ?_⟩
    · rw [hcons, tickOn_eq_qtick, hl]
      rfl
    · rw [patternsOf, List.map_cons, patternOf_pairOn]
      exact congrArg _ hps

/-- `execAll_qticks` for a run on one channel. -/
theorem execAll_ticksOn (c : Chan) (ps qs : List Pattern) (s : State) : ∃ t,
    execAll (ticksOn c ps qs) s = .next t ∧
    (t.chan c).qs = endState s.cfg.qtable (s.chan c).qs ps ∧
    evtTrace c (ticksOn c ps qs) s = latches s.cfg.qtable (s.chan c).qs ps ∧
    ((∀ e ∈ evtTrace c (ticksOn c ps qs) s, e = 0b00#2) →
      (t.chan c).sp = (s.chan c).sp ∧ (t.chan c).ref = (s.chan c).ref) := by
  obtain ⟨l, hl, rfl⟩ := ticksOn_eq_qticks c ps qs
  rw [hl]
  exact execAll_qticks c l s

/-! ### The quiet flag -/

/-- Ticks counted from the reference are the elapsed ticks, modulo 2^TICK_W (R18, R90). -/
theorem elapsed_add (cfg : Config) (ref n : Nat) : elapsed cfg ((ref + n) % 2 ^ cfg.tickW) ref = n % 2 ^ cfg.tickW := by
  have hmod : (((ref + n) % 2 ^ cfg.tickW : Nat) - (ref : Int)) % (2 ^ cfg.tickW : Nat) =
      (n % 2 ^ cfg.tickW : Nat) := by
    rw [Int.natCast_mod, Int.emod_sub_emod, Int.natCast_mod]
    congr 1
    omega
  rw [elapsed, hmod, Int.toNat_natCast]

theorem qticks_length (l : List (Pattern × Pattern)) :
    ((qticks l).filter (fun i => isQtick i)).length = l.length := by
  have hall : ∀ i ∈ qticks l, isQtick i = true := by
    intro i hi
    obtain ⟨x, -, rfl⟩ := List.mem_map.mp hi
    rfl
  rw [List.filter_eq_self.mpr hall, qticks, List.length_map]

/-- Settles O33: an eventless run counts the ticks (O29) and keeps the reference, so as many ticks as it has are
elapsed. -/
theorem quietFromTheFourHundredthTick : Obligations.QuietFromTheFourHundredthTick := by
  intro c ps s t htick href _ hrun hnone
  obtain ⟨u, hu, -, -, hkeep⟩ := execAll_qticks c ps s
  obtain ⟨v, hv, hcount⟩ := tickCountsQticks (qticks ps) s htick
  obtain ⟨w, hw, hcfg, -⟩ := execAll_next s (qticks ps)
  cases hu.symm.trans hrun
  cases hv.symm.trans hrun
  cases hw.symm.trans hrun
  refine ⟨_, exec_qread t c, ?_⟩
  have helapsed : elapsed t.cfg t.tick (t.chan c).ref = ps.length % 2 ^ s.cfg.tickW := by
    rw [hcount, (hkeep hnone).2, href, hcfg, qticks_length, elapsed_add]
  rw [← helapsed]
  exact decide_eq_true_iff

/-! ### Cycles and bounces under the default table -/

/-- From state `q` the patterns give no event and end in state `r`, under the default table. -/
def Silent (q : BitVec 4) (ps : List Pattern) (r : BitVec 4) : Prop :=
  latches defaultTable q ps = List.replicate ps.length 0b00#2 ∧ endState defaultTable q ps = r

theorem Silent.append {q r u : BitVec 4} {ps qs : List Pattern} (hp : Silent q ps r) (hq : Silent r qs u) :
    Silent q (ps ++ qs) u := by
  obtain ⟨hlp, hep⟩ := hp
  obtain ⟨hlq, heq⟩ := hq
  constructor
  · rw [latches_append, hep, hlp, hlq, List.length_append, List.replicate_append_replicate]
  · rw [endState_append, hep, heq]

/-- Patterns that lead to a state and back to it may be repeated before they are given once more. -/
theorem Silent.repeat_append {q r : BitVec 4} {ps : List Pattern} (hin : Silent q ps r) (hloop : Silent r ps r)
    (n : Nat) : Silent q ((List.replicate n ps).flatten ++ ps) r := by
  induction n generalizing q with
  | zero => exact hin
  | succ n ih =>
    rw [List.replicate_succ, List.flatten_cons, List.append_assoc]
    exact hin.append (ih hloop)

/-- Patterns that lead back to their state may be repeated. -/
theorem Silent.loop {q : BitVec 4} {ps : List Pattern} (h : Silent q ps q) (n : Nat) :
    Silent q (List.replicate n ps).flatten q := by
  induction n with
  | zero => exact ⟨rfl, rfl⟩
  | succ n ih => exact h.append ih

/-- A pattern that rests where it leads may be repeated. -/
theorem Silent.hold {q r : BitVec 4} {p : Pattern} (hin : Silent q [p] r) (hloop : Silent r [p] r) (n : Nat) :
    Silent q (List.replicate (n + 1) p) r := by
  induction n generalizing q with
  | zero => exact hin
  | succ n ih => exact hin.append (ih hloop)

/-- A silent run gives no event, and the pattern after it decides the last latch. -/
theorem Silent.evtTrace_snoc {q r : BitVec 4} {ps : List Pattern} (h : Silent q ps r) {c : Chan} {s : State}
    (htable : s.cfg.qtable = defaultTable) (hstart : (s.chan c).qs = q) (p : Pattern) (qs : List Pattern) :
    evtTrace c (ticksOn c (ps ++ [p]) qs) s =
      List.replicate ((ps ++ [p]).length - 1) 0b00#2 ++ [entryFlags (lookup defaultTable r p)] := by
  obtain ⟨-, -, -, htrace, -⟩ := execAll_ticksOn c (ps ++ [p]) qs s
  obtain ⟨hlatches, hend⟩ := h
  rw [htrace, htable, hstart, latches_append, hlatches, hend, List.length_append, List.length_singleton,
    Nat.add_sub_cancel]
  rfl

/-- Settles O34: the channel goes through the table by the cycle's five patterns, which is five lookups. -/
theorem fullCycleGivesOneEvent : Obligations.FullCycleGivesOneEvent := by
  intro c qs s htable hstart
  constructor
  all_goals
    obtain ⟨t, ht, hqs, htrace, -⟩ := execAll_ticksOn c _ qs s
    rw [htable, hstart] at hqs htrace
    exact ⟨t, ht, hqs, htrace⟩

/-- A cycle with bounces, up to its last tick, is silent: `x` is the state at 0b00 and `y` the one before the end; each
bounce leads back to the state it starts from. -/
theorem silent_bounces {a b : Pattern} {q x y : BitVec 4} (hfirst : Silent q [a, 0b00#2] x)
    (hback : Silent x [a, 0b00#2] x) (hforth : Silent x [b, 0b00#2] x) (hlast : Silent x [b] y) (hrest : Silent y [b] y)
    (n m k : Nat) : Silent q ((List.replicate n [a, 0b00#2]).flatten ++ [a, 0b00#2]
      ++ (List.replicate m [b, 0b00#2]).flatten ++ List.replicate (k + 1) b) y :=
  ((hfirst.repeat_append hback n).append (hforth.loop m)).append (hlast.hold hrest k)

/-- Settles O35: the bounces are silent, so the event of the last tick is the only one. -/
theorem bounceKeepsTheDetent : Obligations.BounceKeepsTheDetent := by
  intro c n m k qs s htable hstart
  have hcw : Silent 0x0#4 _ 0x1#4 := silent_bounces (a := 0b01#2) (b := 0b10#2) (x := 0x3#4)
    ⟨rfl, rfl⟩ ⟨rfl, rfl⟩ ⟨rfl, rfl⟩ ⟨rfl, rfl⟩ ⟨rfl, rfl⟩ n m k
  have hccw : Silent 0x0#4 _ 0x5#4 := silent_bounces (a := 0b10#2) (b := 0b01#2) (x := 0x6#4)
    ⟨rfl, rfl⟩ ⟨rfl, rfl⟩ ⟨rfl, rfl⟩ ⟨rfl, rfl⟩ ⟨rfl, rfl⟩ n m k
  exact ⟨hcw.evtTrace_snoc htable hstart 0b11#2 qs, hccw.evtTrace_snoc htable hstart 0b11#2 qs⟩

/-- The partial cycles of R92 (a). -/
def partialCycles : List (List Pattern) :=
  [[0b11#2, 0b01#2, 0b11#2], [0b11#2, 0b01#2, 0b00#2, 0b01#2, 0b11#2],
    [0b11#2, 0b01#2, 0b00#2, 0b10#2, 0b00#2, 0b01#2, 0b11#2], [0b11#2, 0b10#2, 0b11#2],
    [0b11#2, 0b10#2, 0b00#2, 0b10#2, 0b11#2], [0b11#2, 0b10#2, 0b00#2, 0b01#2, 0b00#2, 0b10#2, 0b11#2]]

theorem partialCycles_silent : ∀ ps ∈ partialCycles, Silent 0x0#4 ps 0x0#4 := by
  unfold Silent
  decide

/-- A silent run gives no event, keeps the setpoint and ends in its last state. -/
theorem Silent.no_event {q r : BitVec 4} {ps : List Pattern} (h : Silent q ps r) {c : Chan} {s : State}
    (htable : s.cfg.qtable = defaultTable) (hstart : (s.chan c).qs = q) (qs : List Pattern) :
    (∀ e ∈ evtTrace c (ticksOn c ps qs) s, e = 0b00#2) ∧
    ∃ t, execAll (ticksOn c ps qs) s = .next t ∧ (t.chan c).qs = r ∧ (t.chan c).sp = (s.chan c).sp := by
  obtain ⟨t, ht, hqs, htrace, hkeep⟩ := execAll_ticksOn c ps qs s
  obtain ⟨hlatches, hend⟩ := h
  rw [htable, hstart] at hqs htrace
  have hnone : ∀ e ∈ evtTrace c (ticksOn c ps qs) s, e = 0b00#2 := by
    rw [htrace, hlatches]
    exact fun e he => List.eq_of_mem_replicate he
  exact ⟨hnone, t, ht, hqs.trans hend, (hkeep hnone).1⟩

/-- One QTICK whose entry for channel `c` carries no flag: the channel goes to the entry's state and keeps its setpoint
and reference (R85). -/
theorem exec_tickOn_noEvent {c : Chan} {s : State} {p : Pattern}
    (hflags : entryFlags (lookup s.cfg.qtable (s.chan c).qs p) = 0b00#2) (q : Pattern) :
    ∃ t, exec (tickOn c p q) s = .next t ∧ (t.chan c).qs = entryNext (lookup s.cfg.qtable (s.chan c).qs p) ∧
      (t.chan c).evt = 0b00#2 ∧ (t.chan c).sp = (s.chan c).sp ∧ (t.chan c).ref = (s.chan c).ref := by
  obtain ⟨t, ht, hchan⟩ := exec_qtick_chan (pairOn c p q).1 (pairOn c p q).2 s c
  rw [patternOf_pairOn] at hchan
  rw [tickOn_eq_qtick]
  refine ⟨t, ht, ?_⟩
  rw [hchan, tickWith_qs, tickWith_evt]
  exact ⟨rfl, hflags, tickWith_of_noEvent hflags t.tick⟩

/-- An entry that is a state's number has that state and no flag (R64). -/
theorem entry_of_state : ∀ q : BitVec 4, entryNext (q.setWidth 8) = q ∧ entryFlags (q.setWidth 8) = 0b00#2 := by
  decide

/-- Settles O36: the partial cycles are silent, a rest pattern's entry is the state itself (P1), and the entry of a jump
in both bits is START (P2). -/
theorem bounceAndJumpsGiveNoEvent : Obligations.BounceAndJumpsGiveNoEvent := by
  refine fun c s htable => ⟨fun ps hps hstart qs => (partialCycles_silent ps hps).no_event htable hstart qs, ?_⟩
  intro x hx hstate q
  obtain ⟨hrest, hjump⟩ := defaultTable_rest x hx
  rw [← hstate, ← htable] at hrest hjump
  obtain ⟨hnext, hflags⟩ := entry_of_state (s.chan c).qs
  constructor
  case left =>
    obtain ⟨t, ht, hqs, hkeep⟩ := exec_tickOn_noEvent (by rw [hrest, hflags]) q
    exact ⟨t, ht, by rw [hqs, hrest, hnext, hstate], hkeep⟩
  case right =>
    obtain ⟨t, ht, hqs, hkeep⟩ := exec_tickOn_noEvent (p := ~~~ x.2) (by rw [hjump]; rfl) q
    exact ⟨t, ht, by rw [hqs, hjump]; rfl, hkeep⟩

end Sys2Proof.Proofs

/-!
SUPPORT. The CRC generator (41_crc.md): what CRCINIT and runs of CRCBYTE leave in `crc` and leave unchanged (R101,
R102), the golden vector (R104), and the residue law (R106).
-/

namespace Sys2Proof.Proofs

open Sys2Proof Sys2Proof.Machine

/-! ### The generator commands -/

/-- Writing `crc` changes no other register. -/
theorem setCrc_frame (s : State) (c : Word) : (s.setCrc c).decoderPart = s.decoderPart ∧
    (s.setCrc c).framerPart = { s.framerPart with crc := c } ∧ (s.setCrc c).restPart = s.restPart :=
  ⟨rfl, rfl, rfl⟩

@[simp] theorem setCrc_setCrc (s : State) (c d : Word) : (s.setCrc c).setCrc d = s.setCrc d := rfl

/-- Writing back the CRC that the register holds changes nothing. -/
@[simp] theorem setCrc_self (s : State) : s.setCrc s.crc = s := rfl

/-- A run of CRCBYTE folds `CrcStep` of R100 over its bytes, from the CRC already in the register (R102). -/
theorem execAll_crcbyte (s : State) (bytes : List Byte) :
    execAll (bytes.map .crcbyte) s = .next (s.setCrc (bytes.foldl crcStep s.crc)) := by
  induction bytes generalizing s with
  | nil => simp
  | cons b bs ih =>
    rw [List.map_cons, execAll_cons s _ (exec_crcbyte s b), ih, setCrc_setCrc, setCrc_crc, List.foldl_cons]

/-- CRCINIT starts the fold of `execAll_crcbyte` where CRC16 starts its own. -/
theorem execAll_crcinit_crcbyte (s : State) (bytes : List Byte) :
    execAll (.crcinit :: bytes.map .crcbyte) s = .next (s.setCrc (crc16 bytes)) := by
  rw [execAll_cons s _ (exec_crcinit s), execAll_crcbyte, setCrc_setCrc, setCrc_crc, crc16]

/-- Settles O38: the run is one write of CRC16 of its bytes into `crc`. -/
theorem crcCommandsComputeCrc16 : Obligations.CrcCommandsComputeCrc16 :=
  fun bytes s => ⟨_, execAll_crcinit_crcbyte s bytes, setCrc_crc s _, setCrc_frame s _⟩

/-- Settles O37: each command is one write of `crc`, and the two worked values of R102 are computed. -/
theorem crcCommandResults : Obligations.CrcCommandResults := by
  refine ⟨rfl, fun b => rfl, fun s => ⟨_, exec_crcinit s, setCrc_crc s _, setCrc_frame s _⟩, ?crcbyte, ?worked⟩
  case crcbyte =>
    intro b s
    exact ⟨_, exec_crcbyte s b, setCrc_crc s _, setCrc_frame s _⟩
  case worked => decide

/-! ### The CRC of fixed and of any bytes -/

/-- Settles O39: CRC16 is computed on the six bytes of R104, and the request ends with its two bytes (R103). -/
theorem goldenCrcVector : Obligations.GoldenCrcVector := by
  have hcrc : crc16 [0x01#8, 0x03#8, 0x00#8, 0x00#8, 0x00#8, 0x02#8] = 0x0BC4#16 := by decide +kernel
  refine ⟨hcrc, rfl, rfl, ?_⟩
  rw [withCrc, hcrc]
  rfl

/-- The two bytes of a register's own value, low byte first, bring it to zero. -/
theorem crcFold_concat (hi lo : Byte) : [lo, hi].foldl crcStep (concat hi lo) = 0#16 := by
  simpa using crcStep_own (concat hi lo)

/-- Settles O40: of all registers only the word of the two bytes comes to zero over them, as the fold over fixed bytes
is injective in the register. -/
theorem crcResidueIsZero : Obligations.CrcResidueIsZero := by
  intro payload lo hi
  calc crc16 (payload ++ [lo, hi]) = 0#16
      ↔ [lo, hi].foldl crcStep (crc16 payload) = [lo, hi].foldl crcStep (concat hi lo) := by
        rw [crc16_append, crcFold_concat]
    _ ↔ crc16 payload = concat hi lo := ⟨crcFold_inj, fun h => by rw [h]⟩
    _ ↔ concat hi lo = crc16 payload := eq_comm

end Sys2Proof.Proofs

/-!
SUPPORT. The framer (42_framer.md): the built requests (R110 to R112), the receive buffer (R114, R115, R119), the two
parses with their verdicts and results (R116 to R118, R120), and the detection of a changed byte (R121).
-/

namespace Sys2Proof.Proofs

open Sys2Proof Sys2Proof.Machine

/-! ### Building a request -/

/-- Loading `tx` sets `tx_valid` and changes no other register. -/
theorem loadTx_frame (s : State) (f : Vector Byte 8) : (s.loadTx f).txValid = true ∧
    (s.loadTx f).decoderPart = s.decoderPart ∧
    (s.loadTx f).framerPart = { s.framerPart with tx := f, txValid := true } ∧ (s.loadTx f).restPart = s.restPart :=
  ⟨rfl, rfl, rfl, rfl⟩

/-- The bitmask form of the low byte (R112). -/
theorem bitmask_loByte (v : Word) : (v &&& 0x00FF#16).setWidth 8 = loByte v := by
  apply BitVec.eq_of_toNat_eq
  simp [loByte_toNat, Nat.and_two_pow_sub_one_eq_mod _ 8]

/-- The bitmask form of the high byte is that of the low byte after the shift (R112). -/
theorem loByte_shiftRight (v : Word) : loByte (v >>> 8) = hiByte v := rfl

/-- Settles O42: the command loads `tx` with the request frame of function code 0x03. -/
theorem frmrdResult : Obligations.FrmrdResult :=
  fun slave reg n s => ⟨rfl, _, exec_frmrd s slave reg n, rfl, loadTx_frame s _⟩

/-- Settles O43: the command loads `tx` with the request frame of function code 0x06, whose value bytes are those of
the bitmask form. -/
theorem frmwrResult : Obligations.FrmwrResult := by
  intro slave reg v s
  refine ⟨rfl, _, exec_frmwr s slave reg v, ?_, loadTx_frame s _⟩
  simp only [bitmask_loByte, loByte_shiftRight]
  rfl

/-! ### The receive buffer -/

/-- Settles O45: the command is one clearing of the receive buffer. -/
theorem rxclrResult : Obligations.RxclrResult := by
  refine ⟨rfl, fun s => ⟨_, exec_rxclr s, fun i => ?_, rfl, rfl, rfl, rfl, rfl⟩⟩
  simp

/-- RXPUSH changes no register but `rx`, `rx_cnt` and `rx_ovf` (R115). -/
theorem pushRx_frame (s : State) (b : Byte) : (s.pushRx b).decoderPart = s.decoderPart ∧
    (s.pushRx b).framerPart = { s.framerPart with
      rx := (s.pushRx b).rx, rxCnt := (s.pushRx b).rxCnt, rxOvf := (s.pushRx b).rxOvf } ∧
    (s.pushRx b).restPart = s.restPart := by
  simp [State.decoderPart, State.framerPart, State.restPart]

/-- RXPUSH with room (R115). -/
theorem pushRx_of_room {s : State} (b : Byte) (h : s.rxCnt.toNat < 15) :
    (∀ i : Fin 15, (s.pushRx b).rx[i] = if i.val = s.rxCnt.toNat then b else s.rx[i]) ∧
    (s.pushRx b).rxCnt.toNat = s.rxCnt.toNat + 1 ∧ (s.pushRx b).rxOvf = s.rxOvf := by
  obtain ⟨-, e⟩ | ⟨hfull, -⟩ := pushRx_cases s b
  · rw [e]
    refine ⟨fun i => ?_, ?_, rfl⟩
    · simp [Vector.getElem_setIfInBounds, eq_comm]
    · simp only [BitVec.toNat_add, BitVec.toNat_ofNat]
      omega
  · omega

/-- RXPUSH without room (R115). -/
theorem pushRx_of_full {s : State} (b : Byte) (h : s.rxCnt.toNat = 15) : s.pushRx b = { s with rxOvf := true } := by
  obtain ⟨hroom, -⟩ | ⟨-, e⟩ := pushRx_cases s b
  · omega
  · exact e

/-- Settles O46: a push stores its byte at the count while that is below 15, and then only sets the overflow flag. -/
theorem rxpushResult : Obligations.RxpushResult := by
  refine ⟨fun b => rfl, fun b s => ⟨_, exec_rxpush s b, pushRx_of_room b, fun h => ?_, pushRx_frame s b⟩⟩
  rw [pushRx_of_full b h]
  exact ⟨fun i => rfl, rfl, rfl⟩

/-- Settles O47: the run is one clearing and one `pushAll`, whose contents are known. -/
theorem pushesFillTheBufferInOrder : Obligations.PushesFillTheBufferInOrder := by
  intro bytes s
  have hrun : execAll (.rxclr :: bytes.map .rxpush) s = .next (s.clearRx.pushAll bytes) := by
    rw [execAll_cons s _ (exec_rxclr s), execAll_rxpush]
  obtain ⟨hrx, hcnt, hovf⟩ := clearRx_pushAll_contents s bytes
  refine ⟨_, hrun, fun i => hrx i i.isLt, hcnt, ?_, ?_, ?_⟩
  · rw [hovf, decide_eq_true_iff]
  · simp [State.decoderPart]
  · simp [State.restPart]

/-! ### The two parses -/

/-- PARSE2 writes results and verdict, and no other register (R116). -/
theorem parseDual_framerPart (s : State) : s.parseDual.framerPart =
    if dualOk s then { s.framerPart with
      resV := concat s.rx[3] s.rx[4], resI := concat s.rx[5] s.rx[6], parseOk := true }
    else { s.framerPart with parseOk := false } := by
  obtain ⟨hok, e⟩ | ⟨hok, e⟩ := parseDual_cases s <;> rw [e, hok] <;> rfl

/-- PARSE1 writes `res_cc` and verdict, and no other register (R117). -/
theorem parseSingle_framerPart (s : State) : s.parseSingle.framerPart =
    if singleOk s then { s.framerPart with resCc := ccDecode s.cfg s.rx[4], parseOk := true }
    else { s.framerPart with parseOk := false } := by
  obtain ⟨hok, e⟩ | ⟨hok, e⟩ := parseSingle_cases s <;> rw [e, hok] <;> rfl

/-- The default CC_DECODE clears no byte but 0x00 (R2, R117). -/
theorem ccDecode_default (b : Byte) : ccDecode Config.default b = (b != 0x00#8) := by
  by_cases h0 : b = 0x00#8
  · simp [h0]
  by_cases h1 : b = 0x01#8
  · simp [h1]
  · simp [ccDecode_of_ne _ h0 h1, Config.default, h0]

/-- Settles O48: the two branches of the statement are those of the parse, as the verdict is the statement's test. -/
theorem parse2Result : Obligations.Parse2Result := by
  refine ⟨rfl, fun s => ?_⟩
  obtain ⟨t, ht, hdecoder, hrest, -⟩ := exec_framer (i := .parse2) rfl s
  cases ht
  refine ⟨_, exec_parse2 s, ?_, hdecoder, hrest⟩
  rw [parseDual_framerPart]
  split
  next hcrc =>
    rw [if_pos ((dualOk_iff s).mpr hcrc)]
    rfl
  next hcrc =>
    rw [if_neg (mt (dualOk_iff s).mp hcrc)]

/-- Settles O49: as O48, with the CC decode for the two fields. -/
theorem parse1Result : Obligations.Parse1Result := by
  refine ⟨rfl, fun s => ?_, ccDecode_default⟩
  obtain ⟨t, ht, hdecoder, hrest, -⟩ := exec_framer (i := .parse1) rfl s
  cases ht
  refine ⟨_, exec_parse1 s, ?_, rfl, hdecoder, hrest⟩
  rw [parseSingle_framerPart]
  split
  next hcrc =>
    rw [if_pos ((singleOk_iff s).mpr hcrc)]
  next hcrc =>
    rw [if_neg (mt (singleOk_iff s).mp hcrc)]

/-- A failed PARSE2 keeps the results (R116, R120). -/
theorem parseDual_keeps_results {s : State} (h : dualOk s = false) :
    s.parseDual.resV = s.resV ∧ s.parseDual.resI = s.resI := by
  rw [State.parseDual, h]
  exact ⟨rfl, rfl⟩

/-- A failed PARSE1 keeps its result (R117, R120). -/
theorem parseSingle_keeps_result {s : State} (h : singleOk s = false) : s.parseSingle.resCc = s.resCc := by
  rw [State.parseSingle, h]
  rfl

/-- The CRC of a dual payload of zeros (R119). -/
theorem crc16_sevenZeros : crc16 (List.replicate 7 0x00#8) = 0x001B#16 := by decide +kernel

/-- The CRC of a single payload of zeros (R119). -/
theorem crc16_fiveZeros : crc16 (List.replicate 5 0x00#8) = 0x0024#16 := by decide +kernel

theorem dualOk_clearRx (s : State) : dualOk s.clearRx = false := by
  rw [← Bool.not_eq_true, dualOk_iff, clearRx_rx]
  exact crc16_sevenZeros ▸ (by decide : concat 0x00#8 0x00#8 ≠ 0x001B#16)

theorem singleOk_clearRx (s : State) : singleOk s.clearRx = false := by
  rw [← Bool.not_eq_true, singleOk_iff, clearRx_rx]
  exact crc16_fiveZeros ▸ (by decide : concat 0x00#8 0x00#8 ≠ 0x0024#16)

/-- Settles O52: neither CRC of a cleared buffer is the zero word that stands in its place. -/
theorem noDataFailsBothParses : Obligations.NoDataFailsBothParses := by
  refine ⟨crc16_sevenZeros, crc16_fiveZeros, fun s => ⟨⟨_, rfl, ?_⟩, ⟨_, rfl, ?_⟩⟩⟩
  · rw [State.parseDual, dualOk_clearRx]
    exact ⟨rfl, rfl, rfl, rfl⟩
  · rw [State.parseSingle, singleOk_clearRx]
    exact ⟨rfl, rfl, rfl, rfl, rfl⟩

/-! ### The verdict until the next parse -/

/-- The verdict and the results are the same in both states. -/
def SameResults (s t : State) : Prop :=
  t.parseOk = s.parseOk ∧ t.resV = s.resV ∧ t.resI = s.resI ∧ t.resCc = s.resCc

/-- Only a parse writes the verdict and the results (R120). -/
theorem exec_sameResults {i : Instr} (hi : isParse i = false) (s : State) :
    ∃ t, exec i s = .next t ∧ SameResults s t := by
  cases i with
  | parse2 | parse1 | mbRead2Resp | mbRead1Resp => cases hi
  | _ => exact ⟨_, rfl, by simp [SameResults]⟩

/-- A sequence without a parse keeps the verdict and the results. -/
theorem execAll_sameResults {is : List Instr} (his : ∀ i ∈ is, isParse i = false) (s : State) :
    ∃ t, execAll is s = .next t ∧ SameResults s t := by
  induction is generalizing s with
  | nil => exact ⟨s, rfl, rfl, rfl, rfl, rfl⟩
  | cons i is ih =>
    obtain ⟨hhead, htail⟩ := List.forall_mem_cons.mp his
    obtain ⟨u, hu, hok, hv, hi, hcc⟩ := exec_sameResults hhead s
    obtain ⟨t, ht, hok', hv', hi', hcc'⟩ := ih htail u
    exact ⟨t, (execAll_cons s is hu).trans ht, hok'.trans hok, hv'.trans hv, hi'.trans hi, hcc'.trans hcc⟩

/-- Settles O53: the parse sets the verdict, and what follows keeps verdict and results. -/
theorem parseOkKeepsTheLastVerdict : Obligations.ParseOkKeepsTheLastVerdict := by
  intro is s his
  constructor
  · obtain ⟨t, ht, hok, hv, hi, -⟩ := execAll_sameResults his s.parseDual
    rw [parseDual_parseOk] at hok
    refine ⟨t, (execAll_cons s is (exec_parse2 s)).trans ht, ?_, fun hfail => ?_⟩
    · rw [hok]
      exact dualOk_iff s
    · rw [hv, hi]
      exact parseDual_keeps_results (hok.symm.trans hfail)
  · obtain ⟨t, ht, hok, -, -, hcc⟩ := execAll_sameResults his s.parseSingle
    rw [parseSingle_parseOk] at hok
    refine ⟨t, (execAll_cons s is (exec_parse1 s)).trans ht, ?_, fun hfail => ?_⟩
    · rw [hok]
      exact singleOk_iff s
    · rw [hcc]
      exact parseSingle_keeps_result (hok.symm.trans hfail)

/-! ### A parse reads its frame -/

/-- The check of R105 on a frame given as payload and trailer. -/
theorem frameValid_append (payload : List Byte) (lo hi : Byte) :
    frameValid (payload ++ [lo, hi]) = crcMatches payload lo hi := by
  simp [frameValid]

theorem rxPrefix_add_two (s : State) (n : Nat) (h : n + 1 < 15) :
    rxPrefix s (n + 2) = rxPrefix s n ++ [s.rx[n], s.rx[n + 1]] := by
  simp [rxPrefix, List.take_add_one, h, show n < 15 by omega]

/-- The verdict of PARSE2 is the validity of the nine bytes of its frame (R116, R105). -/
theorem dualOk_eq_frameValid (s : State) : dualOk s = frameValid (rxPrefix s 9) := by
  rw [rxPrefix_add_two s 7 (by decide), frameValid_append]
  rfl

/-- The verdict of PARSE1 is the validity of the seven bytes of its frame (R117, R105). -/
theorem singleOk_eq_frameValid (s : State) : singleOk s = frameValid (rxPrefix s 7) := by
  rw [rxPrefix_add_two s 5 (by decide), frameValid_append]
  rfl

theorem rxPrefix_congr {s t : State} {n : Nat} (h : ∀ i : Fin 15, i.val < n → s.rx[i] = t.rx[i]) :
    rxPrefix s n = rxPrefix t n := by
  apply List.ext_getElem
  · simp [rxPrefix]
  · intro i hi _
    simp only [rxPrefix, List.length_take, Vector.length_toList, lt_min_iff] at hi
    simpa [rxPrefix] using h ⟨i, hi.2⟩ hi.1

/-- Settles O51: the verdict is that of the frame's bytes, and a good parse's results are read from them. -/
theorem parsersReadOnlyTheirFrame : Obligations.ParsersReadOnlyTheirFrame := by
  constructor
  · intro s t hrx
    have hok : dualOk s = dualOk t := by rw [dualOk_eq_frameValid, dualOk_eq_frameValid, rxPrefix_congr hrx]
    refine ⟨_, _, exec_parse2 s, exec_parse2 t, by simp [hok], fun hgood => ?_⟩
    rw [parseDual_parseOk] at hgood
    have h3 : s.rx[3] = t.rx[3] := hrx 3 (by decide)
    have h4 : s.rx[4] = t.rx[4] := hrx 4 (by decide)
    have h5 : s.rx[5] = t.rx[5] := hrx 5 (by decide)
    have h6 : s.rx[6] = t.rx[6] := hrx 6 (by decide)
    simp [State.parseDual, ← hok, hgood, h3, h4, h5, h6]
  · intro s t hrx hcc
    have hok : singleOk s = singleOk t := by rw [singleOk_eq_frameValid, singleOk_eq_frameValid, rxPrefix_congr hrx]
    refine ⟨_, _, exec_parse1 s, exec_parse1 t, by simp [hok], fun hgood => ?_⟩
    rw [parseSingle_parseOk] at hgood
    have h4 : s.rx[4] = t.rx[4] := hrx 4 (by decide)
    simp [State.parseSingle, ← hok, hgood, h4, ccDecode, hcc]

/-! ### A changed byte -/

/-- A valid frame's CRC, trailer included, is the residue 0 (R105, R106). -/
theorem crc16_of_frameValid {f : List Byte} (h : frameValid f = true) : crc16 f = 0x0000#16 := by
  unfold frameValid at h
  split at h
  next hi lo rest hrev =>
    have hf : f = rest.reverse ++ [lo, hi] := by simpa using congrArg List.reverse hrev
    rw [hf, crcResidueIsZero]
    exact (crcMatches_iff _ lo hi).mp h
  next => cases h

/-- Settles O41: two valid frames have the same residue, and two frames that differ in one byte have not. -/
theorem oneChangedByteInvalidatesFrame : Obligations.OneChangedByteInvalidatesFrame := by
  intro before after x y hne hx
  rw [← Bool.not_eq_true]
  exact fun hy => crc16_one_byte before after hne ((crc16_of_frameValid hx).trans (crc16_of_frameValid hy).symm)

/-- A valid frame with the byte at one index replaced by another is not valid. -/
theorem frameValid_set {f : List Byte} (hf : frameValid f = true) {k : Nat} (hk : k < f.length) {x : Byte}
    (hne : f[k]? ≠ some x) : frameValid (f.set k x) = false := by
  have hsplit : f.take k ++ f[k] :: f.drop (k + 1) = f := by simp
  rw [List.set_eq_take_append_cons_drop, if_pos hk]
  apply oneChangedByteInvalidatesFrame _ _ f[k]
  · simpa [hk] using hne
  · rwa [hsplit]

/-- A frame that fits the buffer is found at its start, whatever follows it (R114, R115, R118). -/
theorem rxPrefix_receive (s : State) {frame : List Byte} {n : Nat} (hlen : frame.length = n) (hn : n ≤ 15)
    (more : List Byte) : rxPrefix (s.clearRx.pushAll (frame ++ more)) n = frame := by
  obtain ⟨hrx, -, -⟩ := clearRx_pushAll_contents s (frame ++ more)
  apply List.ext_getElem
  · simp [rxPrefix, hlen, hn]
  · intro i _ hi
    simp [rxPrefix, hrx i (by omega), List.getElem?_append, hi]

theorem length_withCrc (payload : List Byte) : (withCrc payload).length = payload.length + 2 := by
  simp [withCrc, withTrailer]

/-- PARSE2 after a received frame: the verdict is the frame's validity, and a bad frame keeps the results. -/
theorem execAll_receive_parse2 (s : State) {frame : List Byte} (hlen : frame.length = 9) (more : List Byte) :
    ∃ t, execAll (.rxclr :: (frame ++ more).map .rxpush ++ [.parse2]) s = .next t ∧
      t.parseOk = frameValid frame ∧ (frameValid frame = false → t.resV = s.resV ∧ t.resI = s.resI) := by
  have hok : dualOk (s.clearRx.pushAll (frame ++ more)) = frameValid frame := by
    rw [dualOk_eq_frameValid, rxPrefix_receive s hlen (by decide)]
  refine ⟨_, execAll_rxframe s _ .parse2, by rw [parseDual_parseOk, hok], fun hbad => ?_⟩
  simpa using parseDual_keeps_results (hok.trans hbad)

/-- PARSE1 after a received frame: the verdict is the frame's validity, and a bad frame keeps the result. -/
theorem execAll_receive_parse1 (s : State) {frame : List Byte} (hlen : frame.length = 7) (more : List Byte) :
    ∃ t, execAll (.rxclr :: (frame ++ more).map .rxpush ++ [.parse1]) s = .next t ∧
      t.parseOk = frameValid frame ∧ (frameValid frame = false → t.resCc = s.resCc) := by
  have hok : singleOk (s.clearRx.pushAll (frame ++ more)) = frameValid frame := by
    rw [singleOk_eq_frameValid, rxPrefix_receive s hlen (by decide)]
  refine ⟨_, execAll_rxframe s _ .parse1, by rw [parseSingle_parseOk, hok], fun hbad => ?_⟩
  simpa using parseSingle_keeps_result (hok.trans hbad)

/-- Settles O54: a payload with its CRC is a valid frame, and with one byte replaced it is not. -/
theorem receivedFrameIsAcceptedOrDetected : Obligations.ReceivedFrameIsAcceptedOrDetected := by
  constructor <;> intro payload more s hpayload
  · have hlen : (withCrc payload).length = 9 := by rw [length_withCrc, hpayload]
    obtain ⟨t, ht, hok, -⟩ := execAll_receive_parse2 s hlen more
    refine ⟨t, ht, hok.trans (frameValid_withCrc payload), fun k x hk hne => ?_⟩
    have hbad := frameValid_set (frameValid_withCrc payload) (hlen ▸ hk) hne
    obtain ⟨u, hu, hfail, hkeep⟩ := execAll_receive_parse2 s (List.length_set.trans hlen) more
    exact ⟨u, hu, hfail.trans hbad, hkeep hbad⟩
  · have hlen : (withCrc payload).length = 7 := by rw [length_withCrc, hpayload]
    obtain ⟨t, ht, hok, -⟩ := execAll_receive_parse1 s hlen more
    refine ⟨t, ht, hok.trans (frameValid_withCrc payload), fun k x hk hne => ?_⟩
    have hbad := frameValid_set (frameValid_withCrc payload) (hlen ▸ hk) hne
    obtain ⟨u, hu, hfail, hkeep⟩ := execAll_receive_parse1 s (List.length_set.trans hlen) more
    exact ⟨u, hu, hfail.trans hbad, hkeep hbad⟩

end Sys2Proof.Proofs

/-!
SUPPORT. Errors, agents and the host contract (60_exceptions.md): every command completes (R140, R141, R145), the agent
does not matter (R146), cc_led (R149), and what the runs the contract's monitor allows keep (R152, R154, R155, R167).
-/

namespace Sys2Proof.Proofs

open Sys2Proof Sys2Proof.Machine

/-! ### Every command completes -/

/-- Settles O12: `exec` answers a next state for every constructor, with the four fields of the rest as before. -/
theorem everyInstructionCompletes : Obligations.EveryInstructionCompletes := by
  intro i s
  obtain ⟨t, hexec, hcfg, hcmdErr, hrst, hinputs⟩ := exec_next s i
  exact ⟨t, hexec, by simp [State.restPart, hcfg, hcmdErr, hrst, hinputs]⟩

/-- An offered packet is taken to a next state, unless it is a byte sequence that is no frame. -/
theorem takeInput_offer_next (s : State) (agent : Agent) {p : Packet}
    (hframe : ∀ bytes, p = .frame bytes → s.rst = false → ∃ i, decode (.frame bytes) = .ok i) :
    ∃ t, s.takeInput (.offer agent p) = .next t := by
  cases hrst : s.rst with
  | true => exact ⟨s, takeInput_offer_reset s agent p hrst⟩
  | false =>
    cases hdecode : decode p with
    | ok i =>
      obtain ⟨t, hexec, -⟩ := exec_next s i
      exact ⟨t, (takeInput_offer_ok s agent hrst hdecode).trans hexec⟩
    | error e =>
      cases p with
      | command w => exact ⟨_, takeInput_offer_illegal s agent hrst hdecode⟩
      | frame bytes =>
        obtain ⟨i, hi⟩ := hframe bytes rfl hrst
        cases hi.symm.trans hdecode

/-- Settles O13: the step waits, drives the reset pin, or takes an offered packet. -/
theorem stepCompletesOnEveryCommand : Obligations.StepCompletesOnEveryCommand := by
  intro s htable hframe
  rw [step_of_table s htable]
  cases hinputs : s.inputs with
  | nil => exact ⟨s, rfl⟩
  | cons inp rest =>
    cases inp with
    | rst level => exact ⟨_, rfl⟩
    | offer agent p =>
      refine takeInput_offer_next (s.setInputs rest) agent fun bytes hp hrst => ?_
      exact hframe agent bytes rest (by rw [hinputs, hp]) hrst

/-- A word that selects no row of R62 does not decode. -/
theorem decode_error_of_no_row {w : CmdWord} (h : ∀ r ∈ matchTable, w &&& r.mask ≠ r.pattern) :
    ∃ e, decode (.command w) = .error e := by
  cases hdecode : decode (.command w) with
  | error e => exact ⟨e, rfl⟩
  | ok i =>
    obtain ⟨r, hr, -, hsel⟩ := selects_of_decode hdecode
    exact absurd hsel (h r hr)

/-- Settles O11: a word that selects no row does not decode, so the step is CmdError on the state without it. -/
theorem illegalWordOnlySetsCmdErr : Obligations.IllegalWordOnlySetsCmdErr := by
  intro s agent w rest htable hrst hinputs hrows
  obtain ⟨e, he⟩ := decode_error_of_no_row hrows
  refine ⟨(s.setInputs rest).cmdError, ?_, rfl, rfl, rfl⟩
  calc step s = (s.setInputs rest).takeInput (.offer agent (.command w)) := by rw [step_of_table s htable, hinputs]
    _ = .next (s.setInputs rest).cmdError := takeInput_offer_illegal (s.setInputs rest) agent hrst he

/-- Settles O10: the block takes an offer without looking at its agent. -/
theorem issuingAgentIsIgnored : Obligations.IssuingAgentIsIgnored := by
  intro s a b p rest
  have htake : (s.setInputs rest).takeInput (.offer a p) = (s.setInputs rest).takeInput (.offer b p) := rfl
  exact if_congr Iff.rfl htake rfl

/-- Settles O24: both ports read the register `res_cc`. -/
theorem ccLedFollowsResCc : Obligations.CcLedFollowsResCc :=
  fun _ => ⟨rfl, Bool.toNat_eq_one⟩

/-! ### What the monitor allows -/

/-- A phase in which neither a seeding nor a write is due. -/
def nothingDue : Phase → Bool
  | .seed _ => false
  | .write _ _ _ => false
  | _ => true

@[simp] theorem nothingDue_afterSync (c : Chan) : nothingDue (afterSync c) = true := by cases c <;> rfl

/-- What a command the contract lets the host issue can be, and the host after it. -/
inductive HostStep (v : HostView) (s : State) : Instr → HostView → Prop
  /-- A command no duty speaks of. -/
  | idle {i : Instr} (hi : dutyFree i = true) : HostStep v s i v
  /-- A command of a read transaction that makes nothing due (R151, R154 to R156). -/
  | read {i : Instr} {w : HostView} (dual : Bool) (stage : ReadStage) {m : ReadMove}
      (hread : readMove dual stage s i = some m) (hw : nothingDue w.phase = true) : HostStep v s i w
  /-- The parse by which the startup read succeeds (R154). -/
  | startupDone (hok : dualOk s = true) : HostStep v s .parse2 { v with phase := .seed .voltage }
  /-- The seeding of a channel (R154). -/
  | seed {c : Chan} (hv : v.phase = .seed c) :
      HostStep v s (.qseed c (readResult s c)) { v.setShadow c (readResult s c) with phase := afterSeed c }
  /-- The QREAD of a synchronisation, in this pass or as the first of the next (R155). -/
  | sync (c : Chan) (toggled : List Chan) : HostStep v s (.qread c) (syncMove { v with toggled := toggled } s c)
  /-- The write request, held no more (R152, R155). -/
  | write {c : Chan} {x : Word} (hv : v.phase = .write c x 0) :
      HostStep v s (.frmwr systemSlave (deviceReg c) x) { v with phase := .confirm c x .clear }
  /-- A button's toggle (R156). -/
  | button {w : HostView} (c : Chan) (m : Bool) (hw : nothingDue w.phase = true) : HostStep v s (.qmult c m) w

section HostMoves

variable {r : Reading} {v w : HostView} {s : State} {i : Instr} {other : Option HostView}

theorem startupMove_step {stage : ReadStage} (h : startupMove v stage s i = some w) : HostStep v s i w := by
  rcases readTransaction_cases h with ⟨st, hread, rfl⟩ | ⟨ok, hread, rfl⟩
  · exact .read true stage hread rfl
  · cases ok with
    | false => exact .read true stage hread rfl
    | true =>
      obtain ⟨-, rfl, hok⟩ | ⟨hdual, -, -⟩ := readMove_done hread
      · exact .startupDone hok.symm
      · cases hdual

theorem seedMove_step {c : Chan} (hv : v.phase = .seed c) (h : seedMove v c s i = some w) : HostStep v s i w := by
  unfold seedMove at h
  split at h
  · split_ifs at h with hseed
    obtain ⟨rfl, rfl⟩ := hseed
    cases h
    exact .seed hv
  · cases h

theorem syncStart_step {c : Chan} (h : syncStart v c s i = some w) : HostStep v s i w := by
  unfold syncStart at h
  split at h
  · split_ifs at h with hc
    obtain rfl := hc
    cases h
    exact .sync (v := v) _ v.toggled
  · cases h

theorem writeMove_step {c : Chan} {x : Word} {hold : Nat} (hv : v.phase = .write c x hold)
    (h : writeMove v c x hold i = some w) : HostStep v s i w := by
  unfold writeMove at h
  split at h
  · split_ifs at h with hwrite
    obtain ⟨rfl, rfl, rfl, rfl⟩ := hwrite
    cases h
    exact .write hv
  · cases h

theorem confirmMove_step {c : Chan} {x : Word} {stage : ReadStage} (h : confirmMove r v c x stage s i = some w) :
    HostStep v s i w := by
  rcases readTransaction_cases h with ⟨st, hread, rfl⟩ | ⟨ok, hread, rfl⟩
  · exact .read true stage hread rfl
  · exact .read true stage hread (nothingDue_afterSync c)

theorem pollMove_step {stage : ReadStage} (h : pollMove v stage s i = some w) : HostStep v s i w := by
  rcases readTransaction_cases h with ⟨st, hread, rfl⟩ | ⟨ok, hread, rfl⟩
  · exact .read false stage hread rfl
  · exact .read false stage hread rfl

theorem buttonOr_step (hv : nothingDue v.phase = true) (hother : other = some w → HostStep v s i w)
    (h : buttonOr v s i other = some w) : HostStep v s i w := by
  unfold buttonOr at h
  split at h
  · split_ifs at h
    cases h
    exact .button _ _ hv
  · exact hother h

theorem passEndMove_step (hv : v.phase = .passEnd) (h : passEndMove v s i = some w) : HostStep v s i w := by
  unfold passEndMove at h
  split at h
  · split_ifs at h
    cases h
    refine .button _ _ ?_
    rcases buttonAtEnd_phase v _ with e | e <;> rw [e]
    · rw [hv]; rfl
    · rfl
  · split_ifs at h
    cases h
    exact .sync _ []
  · cases h

theorem idleOr_step (hother : other = some w → HostStep v s i w) (h : (if dutyFree i then some v else other) = some w) :
    HostStep v s i w := by
  split_ifs at h with hi
  · cases h
    exact .idle hi
  · exact hother h

/-- The monitor's move, phase by phase. -/
theorem hostMove_step (h : hostMove r v s i = some w) : HostStep v s i w := by
  unfold hostMove at h
  split at h
  case h_1 => exact startupMove_step h
  case h_2 c hv => exact idleOr_step (seedMove_step hv) h
  case h_3 c hv => exact idleOr_step (buttonOr_step (by rw [hv]; rfl) syncStart_step) h
  case h_4 c x hold hv => exact idleOr_step (writeMove_step hv) h
  case h_5 => exact idleOr_step confirmMove_step h
  case h_6 hv => exact idleOr_step (buttonOr_step (by rw [hv]; rfl) pollMove_step) h
  case h_7 => exact idleOr_step pollMove_step h
  case h_8 hv => exact idleOr_step (passEndMove_step hv) h

end HostMoves

/-! ### What a turn can be -/

theorem offerOf_inj {a b : Agent} {i j : Instr} : offerOf a i = offerOf b j ↔ a = b ∧ i = j := by
  refine ⟨fun h => ?_, by rintro ⟨rfl, rfl⟩; rfl⟩
  obtain ⟨hagent, hencode⟩ := Input.offer.inj h
  have hdecode := decode_encode i
  rw [hencode, decode_encode] at hdecode
  cases hdecode
  exact ⟨hagent, rfl⟩

theorem takeInput_offerOf {s : State} (agent : Agent) (i : Instr) (hrst : s.rst = false) :
    s.takeInput (offerOf agent i) = exec i s :=
  takeInput_offer_ok s agent hrst (decode_encode i)

/-- What the contract allows: any level of the reset pin, and with rst released QTICK from the tick agent and the host's
command from the host. -/
theorem contractMove_cases {r : Reading} {v w : HostView} {s : State} {inp : Input}
    (h : contractMove r v s inp = some w) :
    (∃ level, inp = .rst level ∧ w = resetMove v s level) ∨
    (∃ p0 p1, inp = offerOf .tickAgent (.qtick p0 p1) ∧ s.rst = false ∧ w = holdMove v s p0 p1) ∨
    (∃ i, inp = offerOf .host i ∧ s.rst = false ∧ isQtick i = false ∧ hostMove r v s i = some w) := by
  unfold contractMove at h
  split at h
  · exact .inl ⟨_, rfl, (Option.some.inj h).symm⟩
  · cases h
  · split_ifs at h with hrst
    have hrst : s.rst = false := Bool.eq_false_iff.mpr hrst
    split at h
    · next hdecode =>
      obtain ⟨p0, p1, rfl, rfl⟩ := tickMove_cases h
      exact .inr (.inl ⟨p0, p1, by rw [offerOf, encode_decodeCommand hdecode], hrst, rfl⟩)
    · next hdecode =>
      split_ifs at h with htick
      exact .inr (.inr ⟨_, by rw [offerOf, encode_decodeCommand hdecode], hrst, Bool.eq_false_iff.mpr htick, h⟩)
    · cases h

theorem contractMove_tick {r : Reading} {v w : HostView} {s : State} {p0 p1 : Pattern}
    (h : contractMove r v s (offerOf .tickAgent (.qtick p0 p1)) = some w) :
    s.rst = false ∧ w = holdMove v s p0 p1 := by
  obtain ⟨_, e, -⟩ | ⟨q0, q1, e, hrst, rfl⟩ | ⟨i, e, -⟩ := contractMove_cases h
  · cases e
  · obtain ⟨-, e⟩ := offerOf_inj.mp e
    cases e
    exact ⟨hrst, rfl⟩
  · cases (offerOf_inj.mp e).1

theorem contractMove_host {r : Reading} {v w : HostView} {s : State} {i : Instr}
    (h : contractMove r v s (offerOf .host i) = some w) : hostMove r v s i = some w := by
  obtain ⟨_, e, -⟩ | ⟨p0, p1, e, -⟩ | ⟨j, e, -, -, hhost⟩ := contractMove_cases h
  · cases e
  · cases (offerOf_inj.mp e).1
  · obtain ⟨-, rfl⟩ := offerOf_inj.mp e
    exact hhost

/-- What a turn can do to the host and the block, with the number of QTICKs it takes. -/
inductive TurnStep (v : HostView) (s : State) : Nat → HostView → State → Prop
  /-- A released pin is driven released: no reset. -/
  | stay : TurnStep v s 0 v s
  /-- A reset begins or ends, and the host starts again (R154, R160). -/
  | reset (level : Bool) : TurnStep v s 0 HostView.start (s.driveRst level)
  /-- The tick agent's QTICK (R150). -/
  | tick {p0 p1 : Pattern} {t : State} (hexec : exec (.qtick p0 p1) s = .next t) :
      TurnStep v s 1 (holdMove v s p0 p1) t
  /-- A command of the host. -/
  | host {i : Instr} {w : HostView} {t : State} (hi : isQtick i = false) (hstep : HostStep v s i w)
      (hexec : exec i s = .next t) : TurnStep v s 0 w t

theorem isTickTurn_offerOf (agent : Agent) (i : Instr) (r : Reading) :
    isTickTurn ⟨offerOf agent i, r⟩ = isQtick i := by
  simp [isTickTurn, offerOf, decode_encode, Except.toOption]

theorem turnStep_of_moves {turn : Turn} {v w : HostView} {s t : State}
    (hmove : contractMove turn.reading v s turn.input = some w) (htake : s.takeInput turn.input = .next t) :
    TurnStep v s (isTickTurn turn).toNat w t := by
  obtain ⟨inp, r⟩ := turn
  obtain ⟨level, rfl, rfl⟩ | ⟨p0, p1, rfl, hrst, rfl⟩ | ⟨i, rfl, hrst, hi, hhost⟩ := contractMove_cases hmove
  · cases htake
    cases hreset : level || s.rst with
    | true =>
      rw [resetMove, if_pos hreset]
      exact .reset level
    | false =>
      obtain ⟨rfl, hrst⟩ := Bool.or_eq_false_iff.mp hreset
      have hsame : s.driveRst false = s := by simp [State.driveRst, hrst]
      rw [resetMove, hreset, hsame]
      exact .stay
  · rw [takeInput_offerOf _ _ hrst] at htake
    rw [isTickTurn_offerOf]
    exact .tick htake
  · rw [takeInput_offerOf _ _ hrst] at htake
    rw [isTickTurn_offerOf, hi]
    exact .host hi (hostMove_step hhost) htake

theorem contractRun_cons {turn : Turn} {rest : List Turn} {v w : HostView} {s t : State}
    (h : contractRun (turn :: rest) v s = some (w, t)) : ∃ v' s',
    contractMove turn.reading v s turn.input = some v' ∧ s.takeInput turn.input = .next s' ∧
      contractRun rest v' s' = some (w, t) := by
  rw [contractRun] at h
  split at h
  · exact ⟨_, _, ‹_›, ‹_›, h⟩
  · cases h

/-- What every turn keeps, as the QTICKs are counted, holds at the end of a run with all its QTICKs counted. -/
theorem contractRun_keeps {P : Nat → HostView → State → Prop}
    (hkeep : ∀ {k n v s w t}, P k v s → TurnStep v s n w t → P (k + n) w t) {turns : List Turn} {v w : HostView}
    {s t : State} {k : Nat} (h : P k v s) (hrun : contractRun turns v s = some (w, t)) :
    P (k + (turns.filter isTickTurn).length) w t := by
  induction turns generalizing v s k with
  | nil =>
    cases hrun
    exact h
  | cons turn rest ih =>
    obtain ⟨v', s', hmove, htake, hrest⟩ := contractRun_cons hrun
    have hend := ih (hkeep h (turnStep_of_moves hmove htake)) hrest
    have hcount : (isTickTurn turn).toNat + (rest.filter isTickTurn).length =
        ((turn :: rest).filter isTickTurn).length := by
      cases hturn : isTickTurn turn <;> simp [hturn, Nat.add_comm]
    rwa [Nat.add_assoc, hcount] at hend

/-- A turn keeps the parameters. -/
theorem TurnStep.cfg {v w : HostView} {s t : State} {n : Nat} (h : TurnStep v s n w t) : t.cfg = s.cfg := by
  cases h with
  | stay => rfl
  | reset level => exact driveRst_cfg s level
  | tick hexec => exact (exec_rest s hexec).1
  | host _ _ hexec => exact (exec_rest s hexec).1

theorem contractRun_cfg {cfg : Config} {turns : List Turn} {w : HostView} {t : State}
    (hrun : contractRun turns HostView.start (State.resetWith cfg []) = some (w, t)) : t.cfg = cfg :=
  contractRun_keeps (P := fun _ _ s => s.cfg = cfg) (fun h hstep => hstep.cfg.trans h) (k := 0) rfl hrun

/-! ### The write that is due -/

/-- A command no duty speaks of writes at most `crc`. -/
theorem dutyFree_exec {s t : State} {i : Instr} (hi : dutyFree i = true) (hexec : exec i s = .next t) :
    ∃ c, t = s.setCrc c := by
  cases i with
  | nop => exact ⟨s.crc, (Host.Outcome.next.inj hexec).symm⟩
  | crcinit | crcbyte => exact ⟨_, (Host.Outcome.next.inj hexec).symm⟩
  | _ => cases hi

/-- A QREAD makes a write due when the setpoint differs from the shadow and the channel is quiet (R155). -/
theorem syncMove_cases (v : HostView) (s : State) (c : Chan) :
    ((s.chan c).sp ≠ v.shadow c ∧ quietFlag s.cfg s.tick (s.chan c).ref = true ∧
      syncMove v s c = { v with phase := .write c (s.chan c).sp 0 }) ∨
    syncMove v s c = { v with phase := afterSync c } := by
  by_cases h : (s.chan c).sp ≠ v.shadow c ∧ quietFlag s.cfg s.tick (s.chan c).ref = true
  · exact .inl ⟨h.1, h.2, if_pos h⟩
  · exact .inr (if_neg h)

/-- A write is due after a command only where it was before it, or by the QREAD just issued. -/
theorem HostStep.write_due {v w : HostView} {s : State} {i : Instr} {c : Chan} {x : Word} {hold : Nat}
    (h : HostStep v s i w) (hw : w.phase = .write c x hold) :
    (dutyFree i = true ∧ w = v) ∨
    (i = .qread c ∧ x = (s.chan c).sp ∧ x ≠ w.shadow c ∧ quietFlag s.cfg s.tick (s.chan c).ref = true) := by
  cases h with
  | idle hi => exact .inl ⟨hi, rfl⟩
  | read _ _ _ hdue | button _ _ hdue => rw [hw] at hdue; cases hdue
  | startupDone | write => cases hw
  | @seed d => cases d <;> cases hw
  | sync d toggled =>
    obtain ⟨hsp, hquiet, e⟩ | e := syncMove_cases { v with toggled := toggled } s d
    · rw [e] at hw ⊢
      cases hw
      exact .inr ⟨rfl, rfl, by cases c <;> exact hsp, hquiet⟩
    · rw [e] at hw
      cases d <;> cases hw

/-- The host issues a write request only of a write that is due and held no more. -/
theorem hostMove_frmwr {r : Reading} {v w : HostView} {s : State} {slave : Byte} {reg x : Word}
    (h : hostMove r v s (.frmwr slave reg x) = some w) :
    ∃ c, v.phase = .write c x 0 ∧ slave = systemSlave ∧ reg = deviceReg c := by
  cases hostMove_step h with
  | idle hi => cases hi
  | read _ _ hread => simpa using readMove_command hread
  | write hv => exact ⟨_, hv, rfl, rfl⟩

/-- A QTICK makes no write due, and of one that is due it changes the hold (log 19). -/
theorem holdMove_write {v : HostView} {s : State} {p0 p1 : Pattern} {c : Chan} {x : Word} {hold : Nat}
    (h : (holdMove v s p0 p1).phase = .write c x hold) : ∃ held, v.phase = .write c x held ∧
      hold = if s.hasEvent c p0 p1 then quietTicks else held - 1 := by
  obtain ⟨hno, e⟩ | ⟨d, y, held, hv, e⟩ := holdMove_cases (s := s) v p0 p1 <;> rw [e] at h
  · exact absurd h (hno c x hold)
  · cases h
    exact ⟨held, hv, rfl⟩

/-- A write that is due carries what the latch holds, which differs from the shadow and was quiet when latched. -/
def WriteLatched (v : HostView) (s : State) : Prop :=
  ∀ c x hold, v.phase = .write c x hold → s.rd.ch = c ∧ s.rd.sp = x ∧ x ≠ v.shadow c ∧ s.rd.quiet = true ∧
    quietFlag s.cfg s.rd.tick s.rd.ref = true

theorem TurnStep.writeLatched {v w : HostView} {s t : State} {n : Nat} (h : WriteLatched v s)
    (hstep : TurnStep v s n w t) : WriteLatched w t := by
  intro c x hold hw
  cases hstep with
  | stay => exact h c x hold hw
  | reset => cases hw
  | @tick p0 p1 _ hexec =>
    obtain ⟨-, -, hrd, -, -⟩ := qtick_next hexec
    rw [hrd, (exec_rest s hexec).1, holdMove_shadow]
    obtain ⟨held, hv, -⟩ := holdMove_write hw
    exact h c x held hv
  | host _ hhost hexec =>
    obtain ⟨hi, rfl⟩ | ⟨rfl, rfl, hne, hquiet⟩ := hhost.write_due hw
    · obtain ⟨crc, rfl⟩ := dutyFree_exec hi hexec
      exact h c x hold hw
    · cases hexec
      exact ⟨rfl, rfl, hne, hquiet, hquiet⟩

/-- Settles O58: a write request needs a write that is due, and what is due is what the latch holds. -/
theorem hostWritesOnlyQuietSetpoints : Obligations.HostWritesOnlyQuietSetpoints := by
  intro cfg turns r v v' s slave reg x hrun hmove
  have hlatched : WriteLatched v s :=
    contractRun_keeps (P := fun _ => WriteLatched) TurnStep.writeLatched (k := 0) (by intro c x hold h; cases h) hrun
  obtain ⟨c, hv, rfl, rfl⟩ := hostMove_frmwr (contractMove_host hmove)
  obtain ⟨rfl, rfl, hne, hquiet, hflag⟩ := hlatched c x 0 hv
  rw [contractRun_cfg hrun] at hflag
  exact ⟨rfl, rfl, rfl, hne, hquiet, (quietFlag_iff cfg s.rd.tick s.rd.ref).mp hflag⟩

/-! ### No write within 400 ticks of an event -/

theorem elapsed_self (cfg : Config) (tick : Nat) : elapsed cfg tick tick = 0 := by simp [elapsed]

/-- One more tick is at most one more elapsed (R18, R90). -/
theorem elapsed_nextTick_le (cfg : Config) (tick ref : Nat) :
    elapsed cfg (nextTick cfg tick) ref ≤ elapsed cfg tick ref + 1 := by
  have hpos : (0 : Int) < (2 ^ cfg.tickW : Nat) := by positivity
  have hnext : ((nextTick cfg tick : Int) - ref) % (2 ^ cfg.tickW : Nat) =
      (((tick : Int) - ref) % (2 ^ cfg.tickW : Nat) + 1) % (2 ^ cfg.tickW : Nat) := by
    rw [nextTick, Int.natCast_mod, Int.emod_sub_emod, Int.emod_add_emod]
    congr 1
    push_cast
    ring
  obtain ⟨n, hn⟩ := Int.eq_ofNat_of_zero_le (Int.emod_nonneg ((tick : Int) - ref) hpos.ne')
  rw [elapsed, elapsed, hnext, hn]
  exact Nat.mod_le (n + 1) (2 ^ cfg.tickW)

/-- QTICK stamps a channel's reference when it gives it an event, and keeps it otherwise (R85, R86). -/
theorem qtick_ref {s t : State} {p0 p1 : Pattern} (hexec : exec (.qtick p0 p1) s = .next t) (c : Chan) :
    (t.chan c).ref = if s.hasEvent c p0 p1 then t.tick else (s.chan c).ref := by
  obtain ⟨-, hchan, -⟩ := qtick_next hexec
  rw [hchan c, tickWith_ref]
  by_cases h : entryFlags (lookup s.cfg.qtable (s.chan c).qs (patternOf p0 p1 c)) = 0b00#2 <;>
    simp [State.hasEvent, evtFlag, h]

/-- A command that is no QTICK keeps the ticks elapsed since a channel's reference. -/
theorem exec_elapsed {s t : State} {i : Instr} (hi : isQtick i = false) (hexec : exec i s = .next t) (c : Chan) :
    elapsed t.cfg t.tick (t.chan c).ref = elapsed s.cfg s.tick (s.chan c).ref := by
  have hname : mnemonicOf i ≠ "QTICK" := by
    cases i with
    | qtick => cases hi
    | _ => simp [mnemonicOf]
  obtain ⟨hchan, -, -, htick, -⟩ := registersChangeOnlyByTheirWriters i s t hexec
  have href : (t.chan c).ref = (s.chan c).ref := by
    by_contra hne
    exact hname (hchan c (.inr (.inr hne)))
  rw [href, not_not.mp fun hne => hname (htick hne), (exec_rest s hexec).1]

/-- A new level of the reset pin adds nothing to the ticks elapsed: it keeps the registers or clears them (R160). -/
theorem driveRst_elapsed_le (s : State) (level : Bool) (c : Chan) :
    elapsed (s.driveRst level).cfg (s.driveRst level).tick ((s.driveRst level).chan c).ref ≤
      elapsed s.cfg s.tick (s.chan c).ref := by
  obtain ⟨-, e⟩ | ⟨-, -, e⟩ | ⟨-, -, e⟩ := driveRst_cases s level <;> rw [e]
  · simp
  · cases c <;> exact (elapsed_self s.cfg 0).trans_le (Nat.zero_le _)

/-- `k` ticks after an event of channel `c`, or more: at most `k` have elapsed since the channel's reference, and a write
of it that is due is held for what remains of the 400 (R155, log 19). -/
def EventAge (c : Chan) (k : Nat) (v : HostView) (s : State) : Prop :=
  elapsed s.cfg s.tick (s.chan c).ref ≤ k ∧ ∀ x hold, v.phase = .write c x hold → 400 ≤ k + hold

/-- An event's own QTICK stamps the reference and makes the hold full, whatever went before. -/
theorem eventAge_of_event {c : Chan} {v : HostView} {s t : State} {p0 p1 : Pattern}
    (hexec : exec (.qtick p0 p1) s = .next t) (hevent : s.hasEvent c p0 p1 = true) (k : Nat) :
    EventAge c k (holdMove v s p0 p1) t := by
  refine ⟨?_, fun x hold hw => ?_⟩
  · rw [qtick_ref hexec, if_pos hevent, elapsed_self]
    exact Nat.zero_le k
  · obtain ⟨held, -, rfl⟩ := holdMove_write hw
    rw [if_pos hevent]
    exact Nat.le_add_left 400 k

/-- A QTICK without an event is one tick more, and one less to hold. -/
theorem eventAge_of_noEvent {c : Chan} {k : Nat} {v : HostView} {s t : State} {p0 p1 : Pattern}
    (h : EventAge c k v s) (hexec : exec (.qtick p0 p1) s = .next t) (hevent : s.hasEvent c p0 p1 = false) :
    EventAge c (k + 1) (holdMove v s p0 p1) t := by
  obtain ⟨helapsed, hheld⟩ := h
  obtain ⟨htick, -⟩ := qtick_next hexec
  refine ⟨?_, fun x hold hw => ?_⟩
  · rw [qtick_ref hexec, hevent, htick, (exec_rest s hexec).1]
    exact (elapsed_nextTick_le s.cfg s.tick _).trans (Nat.succ_le_succ helapsed)
  · obtain ⟨held, hv, rfl⟩ := holdMove_write hw
    have := hheld x held hv
    rw [hevent]
    simp only [Bool.false_eq_true, if_false]
    omega

theorem TurnStep.eventAge {c : Chan} {k n : Nat} {v w : HostView} {s t : State} (h : EventAge c k v s)
    (hstep : TurnStep v s n w t) : EventAge c (k + n) w t := by
  obtain ⟨helapsed, hheld⟩ := h
  cases hstep with
  | stay => exact ⟨helapsed, hheld⟩
  | reset level => exact ⟨(driveRst_elapsed_le s level c).trans helapsed, fun x hold hw => by cases hw⟩
  | @tick p0 p1 _ hexec =>
    cases hevent : s.hasEvent c p0 p1 with
    | true => exact eventAge_of_event hexec hevent (k + 1)
    | false => exact eventAge_of_noEvent ⟨helapsed, hheld⟩ hexec hevent
  | host hi hhost hexec =>
    refine ⟨(exec_elapsed hi hexec c).trans_le helapsed, fun x hold hw => ?_⟩
    obtain ⟨-, rfl⟩ | ⟨-, -, -, hquiet⟩ := hhost.write_due hw
    · exact hheld x hold hw
    · have hquiet : 400 ≤ elapsed s.cfg s.tick (s.chan c).ref := of_decide_eq_true hquiet
      exact Nat.le_add_right_of_le (hquiet.trans helapsed)

/-- The two channels have different device registers. -/
theorem deviceReg_injective : Function.Injective deviceReg := by
  intro c d
  cases c <;> cases d <;> decide

/-- Settles O59: a write that the monitor allows is held no more, so 400 ticks have come since the channel's event. -/
theorem noWriteWithin400TicksOfAnEvent : Obligations.NoWriteWithin400TicksOfAnEvent := by
  intro cfg before after q r v w s t p0 p1 c slave x _ hflags hrun hcount
  have hevent : s.hasEvent c p0 p1 = true := by
    rw [← patternOf_eq] at hflags
    simpa [State.hasEvent, evtFlag, entryFlags] using hflags
  obtain ⟨v', s', hmove, htake, hrest⟩ := contractRun_cons hrun
  obtain ⟨hrst, rfl⟩ := contractMove_tick hmove
  rw [takeInput_offerOf _ _ hrst] at htake
  have hage := contractRun_keeps TurnStep.eventAge (eventAge_of_event (v := v) htake hevent 0) hrest
  rw [Option.eq_none_iff_forall_ne_some]
  intro w' hw'
  obtain ⟨d, hw, -, hreg⟩ := hostMove_frmwr (contractMove_host hw')
  obtain rfl := deviceReg_injective hreg
  have hdue : 400 ≤ 0 + (after.filter isTickTurn).length + 0 := hage.2 x 0 hw
  exact absurd hcount (by simpa using hdue)

/-! ### The seeding -/

/-- A seeding is due after a command only where it was before it, or by the parse of the startup read. -/
theorem HostStep.seed_due {v w : HostView} {s : State} {i : Instr} {c : Chan} (h : HostStep v s i w)
    (hw : w.phase = .seed c) :
    (dutyFree i = true ∧ w = v) ∨ (i = .parse2 ∧ dualOk s = true) ∨ (∃ d x, i = .qseed d x ∧ v.phase = .seed d) := by
  cases h with
  | idle hi => exact .inl ⟨hi, rfl⟩
  | read _ _ _ hdue | button _ _ hdue => rw [hw] at hdue; cases hdue
  | startupDone hok => exact .inr (.inl ⟨rfl, hok⟩)
  | seed hv => exact .inr (.inr ⟨_, _, rfl, hv⟩)
  | write => cases hw
  | sync d toggled =>
    obtain ⟨-, -, e⟩ | e := syncMove_cases { v with toggled := toggled } s d <;> rw [e] at hw
    · cases hw
    · cases d <;> cases hw

/-- The host seeds only in a seeding that is due, with the value read. -/
theorem hostMove_qseed {r : Reading} {v w : HostView} {s : State} {c : Chan} {x : Word}
    (h : hostMove r v s (.qseed c x) = some w) : v.phase = .seed c ∧ x = readResult s c := by
  cases hostMove_step h with
  | idle hi => cases hi
  | read _ _ hread => simpa using readMove_command hread
  | seed hv => exact ⟨hv, rfl⟩

/-- In its startup the host issues the commands of a read alone. -/
theorem hostMove_startup {r : Reading} {v w : HostView} {s : State} {i : Instr} {stage : ReadStage}
    (hv : v.phase = .startup stage) (h : hostMove r v s i = some w) : ∃ m, readMove true stage s i = some m := by
  simp only [hostMove, hv] at h
  obtain ⟨st, hread, -⟩ | ⟨ok, hread, -⟩ := readTransaction_cases h
  · exact ⟨_, hread⟩
  · exact ⟨_, hread⟩

/-- A seeding is due only after a parse that succeeded. -/
def SeedConfirmed (v : HostView) (s : State) : Prop := ∀ c, v.phase = .seed c → s.parseOk = true

theorem TurnStep.seedConfirmed {v w : HostView} {s t : State} {n : Nat} (h : SeedConfirmed v s)
    (hstep : TurnStep v s n w t) : SeedConfirmed w t := by
  intro c hw
  cases hstep with
  | stay => exact h c hw
  | reset => cases hw
  | @tick p0 p1 _ hexec =>
    obtain ⟨-, -, -, hframer, -⟩ := qtick_next hexec
    refine (congrArg FramerPart.parseOk hframer).trans ?_
    obtain ⟨-, e⟩ | ⟨d, x, hold, -, e⟩ := holdMove_cases (s := s) v p0 p1 <;> rw [e] at hw
    · exact h c hw
    · cases hw
  | host _ hhost hexec =>
    obtain ⟨hi, rfl⟩ | ⟨rfl, hok⟩ | ⟨d, x, rfl, hv⟩ := hhost.seed_due hw
    · obtain ⟨crc, rfl⟩ := dutyFree_exec hi hexec
      exact h c hw
    · cases hexec
      rw [parseDual_parseOk, hok]
    · cases hexec
      rw [setChan_parseOk]
      exact h d hv

/-- Settles O60: a QSEED needs a seeding that is due, and the startup is a read transaction. -/
theorem hostSeedsOnlyFromConfirmedRead : Obligations.HostSeedsOnlyFromConfirmedRead := by
  intro cfg turns r v v' s i hrun hmove
  have hhost := contractMove_host hmove
  constructor
  · rintro c x rfl
    have hconfirmed : SeedConfirmed v s :=
      contractRun_keeps (P := fun _ => SeedConfirmed) TurnStep.seedConfirmed (k := 0) (by intro c h; cases h) hrun
    obtain ⟨hv, rfl⟩ := hostMove_qseed hhost
    refine ⟨hconfirmed c hv, ?_⟩
    cases c <;> rfl
  · intro stage hv
    obtain ⟨m, hread⟩ := hostMove_startup hv hhost
    obtain rfl | ⟨_, _, _, rfl⟩ | ⟨_, rfl⟩ | rfl | rfl := readMove_command hread <;> simp [isDecoder, mnemonicOf]

end Sys2Proof.Proofs

/-!
SUPPORT. Reset (70_reset_and_hazards.md): the waiting for an input (R161), what the reset pin does to an offer and to
the registers (R160), and the two flags only the release of reset clears (R26, R141, R161).
-/

namespace Sys2Proof.Proofs

open Sys2Proof Sys2Proof.Machine

/-! ### The step by its oldest input -/

/-- Settles O8: an allowed table lets the step look at its inputs, and there is none to take. -/
theorem stepWaitsForInput : Obligations.StepWaitsForInput := by
  intro s htable hinputs
  rw [step_of_table s htable, hinputs]

theorem step_of_inputs {s : State} {inp : Input} {rest : List Input} (htable : tableOk s.cfg.qtable = true)
    (hinputs : s.inputs = inp :: rest) : step s = (s.setInputs rest).takeInput inp := by
  rw [step_of_table s htable, hinputs]

/-! ### Reset -/

/-- Settles O17: `State.reset` is the reset state with the default table, which is allowed. -/
theorem resetMeetsBlockInvariant : Obligations.ResetMeetsBlockInvariant :=
  ⟨resetWith_inv (cfg := Config.default) (by decide) [], fun _ inputs htable => resetWith_inv htable inputs⟩

/-- The release of an asserted rst is `Reset()`, with the parameters and the waiting inputs as before (R160). -/
theorem driveRst_release {s : State} (hrst : s.rst = true) : s.driveRst false = State.resetWith s.cfg s.inputs := by
  simp [State.driveRst, hrst]

@[simp] theorem resetWith_chan (cfg : Config) (l : List Input) (c : Chan) :
    (State.resetWith cfg l).chan c = Channel.reset := by cases c <;> rfl

/-- Settles O16: while rst is asserted the step drops an offer, and the release gives the reset state, whose registers
are read off one by one. -/
theorem resetReleaseGivesResetValues : Obligations.ResetReleaseGivesResetValues := by
  intro s rest htable hrst
  constructor
  · intro agent p hinputs
    rw [step_of_inputs htable hinputs]
    exact takeInput_offer_reset (s.setInputs rest) agent p hrst
  · intro hinputs
    have hstep : step s = .next (State.resetWith s.cfg rest) :=
      calc step s = .next ((s.setInputs rest).driveRst false) := step_of_inputs htable hinputs
        _ = .next (State.resetWith s.cfg rest) := congrArg _ (driveRst_release hrst)
    exact ⟨_, hstep, by simp [Channel.reset, ReadOut.reset, State.readPort]⟩

/-! ### The sticky flags -/

/-- `t` still has whichever of `cmd_err` and `tx_valid` is set in `s`. -/
def KeepsFlags (s t : State) : Prop :=
  (s.cmdErr = true → t.cmdErr = true) ∧ (s.txValid = true → t.txValid = true)

theorem KeepsFlags.of_eq {s t : State} (herr : t.cmdErr = s.cmdErr) (hvalid : t.txValid = s.txValid) :
    KeepsFlags s t :=
  ⟨herr.trans, hvalid.trans⟩

/-- The only instructions that write `tx_valid` build a request, and they set it. -/
theorem exec_next_txValid (s : State) (i : Instr) : ∃ t, exec i s = .next t ∧
    (s.txValid = true → t.txValid = true) := by
  cases i with
  | frmrd | frmwr | mbReadReq | mbWriteReq => exact ⟨_, rfl, fun _ => loadTx_txValid s _⟩
  | _ => exact ⟨_, rfl, by simp⟩

theorem exec_keepsFlags {s t : State} {i : Instr} (hexec : exec i s = .next t) : KeepsFlags s t := by
  obtain ⟨-, herr, -, -⟩ := exec_rest s hexec
  obtain ⟨u, hu, hvalid⟩ := exec_next_txValid s i
  cases hexec.symm.trans hu
  exact ⟨herr.trans, hvalid⟩

/-- The reset pin clears the flags at no level but the release of an asserted rst. -/
theorem driveRst_keepsFlags {s : State} {level : Bool} (h : ¬ (level = false ∧ s.rst = true)) :
    KeepsFlags s (s.driveRst level) := by
  obtain ⟨-, e⟩ | ⟨hlevel, hrst, -⟩ | ⟨-, -, e⟩ := driveRst_cases s level
  · rw [e]
    exact .of_eq (setRst_cmdErr s true) (setRst_txValid s true)
  · exact absurd ⟨hlevel, hrst⟩ h
  · rw [e]
    exact .of_eq rfl rfl

theorem takeInput_keepsFlags {s t : State} {inp : Input} (h : ¬ (inp = .rst false ∧ s.rst = true))
    (htake : s.takeInput inp = .next t) : KeepsFlags s t := by
  obtain ⟨level, rfl, rfl⟩ | ⟨_, _, -, -, rfl⟩ | ⟨_, _, i, -, -, -, hexec⟩ | ⟨_, _, _, -, -, -, rfl⟩ :=
    takeInput_cases s htake
  · exact driveRst_keepsFlags fun ⟨hlevel, hrst⟩ => h ⟨congrArg _ hlevel, hrst⟩
  · exact .of_eq rfl rfl
  · exact exec_keepsFlags hexec
  · exact ⟨fun _ => cmdError_cmdErr s, (cmdError_txValid s).trans⟩

/-- `releasesReset` names the step that the rules of the reset pin single out. -/
theorem releasesReset_iff {s : State} {inp : Input} {rest : List Input} (hinputs : s.inputs = inp :: rest) :
    releasesReset s = true ↔ inp = .rst false ∧ s.rst = true := by
  rcases inp with (_ | _) | ⟨_, _⟩ <;> simp [releasesReset, hinputs]

/-- Settles O14: a step waits or takes one input, and only the release of an asserted rst clears a flag. -/
theorem onlyResetClearsStickyFlags : Obligations.OnlyResetClearsStickyFlags := by
  intro s t hstep hrelease
  obtain ⟨-, ⟨-, rfl⟩ | ⟨inp, rest, hinputs, htake⟩⟩ := step_cases s hstep
  · exact KeepsFlags.of_eq rfl rfl
  · have hnot : ¬ (inp = .rst false ∧ s.rst = true) := by
      rw [← releasesReset_iff hinputs, hrelease]
      exact Bool.false_ne_true
    exact takeInput_keepsFlags (s := s.setInputs rest) hnot htake

end Sys2Proof.Proofs
